-- ==== Sys2Proof/Word.lean ====
section
/-! DEFINITION. The word types of the block: every value is unsigned (00_scope.md R9). -/

namespace Sys2Proof

/-- One 8-bit byte: an element of IN, OUT, an array register or the wire image (R10). -/
abbrev Byte := BitVec 8

/-- A 16-bit scalar register or operand (R21). -/
abbrev Half := BitVec 16

/-- A 32-bit command word, scalar register or result register (R21, R32, R80). -/
abbrev Word := BitVec 32

end Sys2Proof
end

