-- ==== Sys2Proof/Config.lean ====
section
/-! DEFINITION. Parameters and fixed sizes of the block, the names of its layers and fields, and the
one free value (00_scope.md R3, R7, R8, R14). -/

namespace Sys2Proof

/-- The parameters the source leaves open (R8): the model takes them as an argument, carried in
`State.cfg` and never changed by a step (log 5). -/
structure Config where
  /-- IN_CAP: capacity of the input buffer in bytes. -/
  inCap : Nat
  /-- TRIM_SET: the bytes the display trim removes. -/
  trimSet : List Byte
deriving DecidableEq, Repr

/-- The defaults of R8: IN_CAP = 1024 and TRIM_SET = {0x09-0x0D, 0x20}. -/
def Config.default : Config where
  inCap := 1024
  trimSet := [0x09#8, 0x0A#8, 0x0B#8, 0x0C#8, 0x0D#8, 0x20#8]

/-- FREE VALUE (log 3; 93_implementation_defined.md U4, "any value"): the byte of IN at an index that
the host has never written. It has no body, so no proof can see which byte it is. -/
opaque Config.inUnwritten : Nat → Byte

/-- PKT_LEN, the length of the wire image (R7). -/
def pktLen : Nat := 638
/-- ROOT_LEN, the size of the Root Layer region (R7). -/
def rootLen : Nat := 38
/-- FRAME_LEN, the size of the Framing Layer region (R7). -/
def frameLen : Nat := 77
/-- DMP_LEN, the size of the DMP Layer region (R7). -/
def dmpLen : Nat := 523
/-- DMX_SLOTS, the number of slot values of one universe (R7). -/
def dmxSlots : Nat := 512
/-- NAME_LEN, the bytes of the source name (R7). -/
def nameLen : Nat := 64
/-- CID_LEN, the bytes of the component identifier (R7). -/
def cidLen : Nat := 16
/-- IDENT_LEN, the bytes of the ACN packet identifier (R7). -/
def identLen : Nat := 12
/-- PV_LEN, the bytes of the property value block (R7). -/
def pvLen : Nat := 513
/-- OUT_CAP, the capacity of the output buffer, fixed at 638 (R8). -/
def outCap : Nat := 638

/-- The identity string of the block, which no register holds (R3). -/
def identityString : String := "SACN-CODEC-E131/VL.sACN-v7/cmd-if-1"

/-- The three layers of a packet (R62, R170). -/
inductive Layer where
  | root | frame | dmp
deriving DecidableEq, Repr

/-- The 21 packet field registers, in wire order (10_state.md R21). -/
inductive Field where
  | preambleSize | postambleSize | acnPacketIdentifier | rootFlagsLength | rootVector | componentId
  | frameFlagsLength | frameVector | sourceName | priority | reserved | sequenceNumber | options
  | dmxUniverse
  | dmpFlagsLength | dmpVector | addressTypeAndDataType | firstPropertyAddress | addressIncrement
  | propertyValueCount | propertyValues
deriving DecidableEq, Repr

/-- The kind column of R21: an unsigned scalar of 8, 16 or 32 bits, or an array of n bytes. -/
inductive FieldKind where
  | s8 | s16 | s32
  | array (n : Nat)
deriving DecidableEq, Repr

/-- The value a field register holds: a number or the bytes of an array (R21, R30). -/
inductive FieldValue where
  | s8 (v : BitVec 8)
  | s16 (v : BitVec 16)
  | s32 (v : BitVec 32)
  | array (bytes : List Byte)
deriving DecidableEq, Repr

/-- The source's four failures and the two that this block adds (60_exceptions.md R200). -/
inductive ErrorCode where
  | outOfRange | invalidValueCount | tooShort | unrecognizedLayer | noPacket | illegalCommand
deriving DecidableEq, Repr

end Sys2Proof
end

