-- ==== Sys2Proof/Syntax.lean ====
section
/-! DEFINITION. The commands: one constructor per row of spec/opcode_table.json, in the table's order,
each operand at the width its format gives it (30_encoding.md R81-R89). -/

namespace Sys2Proof

/-- One command. Selectors and field ids are the raw 8-bit operand: the command checks them, not the
decoder (R92). -/
inductive Instr where
  /-- `FL_ENCODE flags, length` (40_bitfield.md R110). -/
  | flEncode (flg : BitVec 8) (len : BitVec 16)
  /-- `FL_DECODE word` (R111). -/
  | flDecode (w : BitVec 16)
  /-- `LAYER_INFO sel` (41_layer_accessors.md R122). -/
  | layerInfo (sel : BitVec 8)
  /-- `ROOT_SPLIT` (R123). -/
  | rootSplit
  /-- `FRAME_SPLIT` (R124). -/
  | frameSplit
  /-- `SET_SEQUENCE v` (R126). -/
  | setSequence (v : BitVec 24)
  /-- `DMP_GET_START_CODE` (R127). -/
  | dmpGetStartCode
  /-- `DMP_GET_VALUES` (R128). -/
  | dmpGetValues
  /-- `READ_FIELD fid` (R131). -/
  | readField (fid : BitVec 8)
  /-- `TO_NETWORK sel` (42_endianness.md R153). -/
  | toNetwork (sel : BitVec 8)
  /-- `TO_HOST sel` (R154). -/
  | toHost (sel : BitVec 8)
  /-- `CONSTRUCT universe` (43_packet.md R175). -/
  | construct (u : BitVec 16)
  /-- `UPDATE start_code, seq` (R178). -/
  | update (sc : BitVec 8) (seq : BitVec 8)
  /-- `SERIALIZE` (R182). -/
  | serialize
  /-- `SERIALIZE_LAYER sel` (R185). -/
  | serializeLayer (sel : BitVec 8)
  /-- `DESERIALIZE` (R190). -/
  | deserialize
deriving DecidableEq, Repr

end Sys2Proof
end

