-- ==== Sys2Proof/WellFormed.lean ====
section
/-! DEFINITION. What the spec admits as parameters and as commands. -/

namespace Sys2Proof

/-- The constraint on IN_CAP: 638 ≤ IN_CAP ≤ 65535 (00_scope.md R8). -/
def Config.inCapOk (c : Config) : Bool := decide (638 ≤ c.inCap) && decide (c.inCap ≤ 65535)

/-- TRIM_SET must contain 0x20 (41_layer_accessors.md R121). -/
def Config.trimSetOk (c : Config) : Bool := c.trimSet.contains 0x20#8

/-- The parameters the spec admits (R8, R121). -/
def Config.wellFormed (c : Config) : Bool := c.inCapOk && c.trimSetOk

/-- The commands the encoding admits. Every operand has exactly the width of its field (R83-R87) and
a selector or field id of any value is legal in the word, for the command checks it and not the
decoder (R92): so every term of `Instr` is well formed. -/
def Instr.wellFormed : Instr → Bool
  | .flEncode _ _ => true
  | .flDecode _ => true
  | .layerInfo _ => true
  | .rootSplit => true
  | .frameSplit => true
  | .setSequence _ => true
  | .dmpGetStartCode => true
  | .dmpGetValues => true
  | .readField _ => true
  | .toNetwork _ => true
  | .toHost _ => true
  | .construct _ => true
  | .update _ _ => true
  | .serialize => true
  | .serializeLayer _ => true
  | .deserialize => true

end Sys2Proof
end

