-- ==== Sys2Proof/Decode.lean ====
section
/-! DEFINITION. The decoder, total on every 32-bit word, and the encoder (30_encoding.md R80-R93).
A command is a word on a port, not bytes in a memory (R67), so no byte order enters here (log 13). -/

namespace Sys2Proof

/-- The six operand formats (R81). -/
inductive Format where
  | a | fl | w | u | v | s
deriving DecidableEq, Repr

/-- Why a word is no command: the two errors the decoder raises (R90, R91). -/
inductive DecodeError where
  /-- ILLEGAL_COMMAND(1): the opcode is in no row of the opcode map. -/
  | illegalOpcode
  /-- ILLEGAL_COMMAND(2): a reserved operand bit is 1. -/
  | reservedBits
deriving DecidableEq, Repr

/-- OPC = word[31:24] (R80). -/
def opcodeOf (word : Word) : BitVec 8 := word.extractLsb' 24 8
/-- FLG8 = word[23:16] (R83). -/
def flg8 (word : Word) : BitVec 8 := word.extractLsb' 16 8
/-- LEN16 = word[15:0] (R83). -/
def len16 (word : Word) : BitVec 16 := word.extractLsb' 0 16
/-- W16 = word[15:0] (R84). -/
def w16 (word : Word) : BitVec 16 := word.extractLsb' 0 16
/-- SC8 = word[15:8] (R85). -/
def sc8 (word : Word) : BitVec 8 := word.extractLsb' 8 8
/-- SEQ8 = word[7:0] (R85). -/
def seq8 (word : Word) : BitVec 8 := word.extractLsb' 0 8
/-- V24 = word[23:0] (R86). -/
def v24 (word : Word) : BitVec 24 := word.extractLsb' 0 24
/-- SEL8 = word[7:0] (R87). -/
def sel8 (word : Word) : BitVec 8 := word.extractLsb' 0 8

/-- The bits a format reserves (R91). -/
def reservedMask : Format → Word
  | .a => 0x00FFFFFF#32
  | .fl => 0x00000000#32
  | .w => 0x00FF0000#32
  | .u => 0x00FF0000#32
  | .v => 0x00000000#32
  | .s => 0x00FFFF00#32

/-- The opcode map: the format of an opcode and the command its operand fields make (R89, and the
operand assembly of R88). -/
def opcodeRow : Nat → Option (Format × (Word → Instr))
  | 0x01 => some (.fl, fun word => .flEncode (flg8 word) (len16 word))
  | 0x02 => some (.w, fun word => .flDecode (w16 word))
  | 0x10 => some (.s, fun word => .layerInfo (sel8 word))
  | 0x11 => some (.a, fun _ => .rootSplit)
  | 0x12 => some (.a, fun _ => .frameSplit)
  | 0x13 => some (.v, fun word => .setSequence (v24 word))
  | 0x14 => some (.a, fun _ => .dmpGetStartCode)
  | 0x15 => some (.a, fun _ => .dmpGetValues)
  | 0x16 => some (.s, fun word => .readField (sel8 word))
  | 0x20 => some (.s, fun word => .toNetwork (sel8 word))
  | 0x21 => some (.s, fun word => .toHost (sel8 word))
  | 0x30 => some (.w, fun word => .construct (w16 word))
  | 0x31 => some (.u, fun word => .update (sc8 word) (seq8 word))
  | 0x32 => some (.a, fun _ => .serialize)
  | 0x33 => some (.s, fun word => .serializeLayer (sel8 word))
  | 0x34 => some (.a, fun _ => .deserialize)
  | _ => none

/-- The decoding procedure of R93. -/
def decode (word : Word) : Except DecodeError Instr :=
  match opcodeRow (opcodeOf word).toNat with
  | none => .error .illegalOpcode
  | some (fmt, build) =>
    if word &&& reservedMask fmt ≠ 0#32 then .error .reservedBits else .ok (build word)

/-- The command of a row of spec/opcode_table.json: `w` holds the row's `nbits` bits, numbered as the
table numbers them, and every bit above is 0. A word longer than a command is none (R80, log 13). -/
def decodeTableWord (nbits w : Nat) : Option Instr :=
  let v := w % 2 ^ nbits
  if v < 2 ^ 32 then (decode (BitVec.ofNat 32 v)).toOption else none

/-- The word of a command, field beside field from bit 31 down (R81-R87, R89). -/
def encode : Instr → Word
  | .flEncode flg len => 0x01#8 ++ flg ++ len
  | .flDecode w => 0x02#8 ++ 0x00#8 ++ w
  | .layerInfo sel => 0x10#8 ++ 0x0000#16 ++ sel
  | .rootSplit => 0x11#8 ++ 0x000000#24
  | .frameSplit => 0x12#8 ++ 0x000000#24
  | .setSequence v => 0x13#8 ++ v
  | .dmpGetStartCode => 0x14#8 ++ 0x000000#24
  | .dmpGetValues => 0x15#8 ++ 0x000000#24
  | .readField fid => 0x16#8 ++ 0x0000#16 ++ fid
  | .toNetwork sel => 0x20#8 ++ 0x0000#16 ++ sel
  | .toHost sel => 0x21#8 ++ 0x0000#16 ++ sel
  | .construct u => 0x30#8 ++ 0x00#8 ++ u
  | .update sc seq => 0x31#8 ++ 0x00#8 ++ sc ++ seq
  | .serialize => 0x32#8 ++ 0x000000#24
  | .serializeLayer sel => 0x33#8 ++ 0x0000#16 ++ sel
  | .deserialize => 0x34#8 ++ 0x000000#24

/-- The format of a command (R81, R89). -/
def formatOf : Instr → Format
  | .flEncode _ _ => .fl
  | .flDecode _ => .w
  | .layerInfo _ => .s
  | .rootSplit => .a
  | .frameSplit => .a
  | .setSequence _ => .v
  | .dmpGetStartCode => .a
  | .dmpGetValues => .a
  | .readField _ => .s
  | .toNetwork _ => .s
  | .toHost _ => .s
  | .construct _ => .w
  | .update _ _ => .u
  | .serialize => .a
  | .serializeLayer _ => .s
  | .deserialize => .a

end Sys2Proof
end

