-- ==== Sys2Proof/Machine/State.lean ====
section
/-! DEFINITION. The state of one codec instance (10_state.md R20), the host's side of it, the reasons a
step can stop, and the state after reset (70_reset_and_hazards.md R230). -/

namespace Sys2Proof.Machine

/-- A byte buffer: (index, byte) pairs with rising indices. An index that is not listed holds no value.
The canonical form is `Memory.wf` (Safety.lean). -/
abbrev Memory := List Host.Cell

/-- The Root Layer registers (10_state.md R21, R22). -/
structure RootLayer where
  preambleSize : BitVec 16
  postambleSize : BitVec 16
  acnPacketIdentifier : Vector Byte 12
  rootFlagsLength : BitVec 16
  rootVector : BitVec 32
  componentId : Vector Byte 16
deriving DecidableEq, Repr

/-- The Framing Layer registers (R21, R23). -/
structure FramingLayer where
  frameFlagsLength : BitVec 16
  frameVector : BitVec 32
  sourceName : Vector Byte 64
  priority : BitVec 8
  reserved : BitVec 16
  sequenceNumber : BitVec 8
  options : BitVec 8
  dmxUniverse : BitVec 16
deriving DecidableEq, Repr

/-- The DMP Layer registers (R21, R24): index 0 of `propertyValues` is the start code, indices 1 to 512
are the slots (R26). -/
structure DmpLayer where
  dmpFlagsLength : BitVec 16
  dmpVector : BitVec 8
  addressTypeAndDataType : BitVec 8
  firstPropertyAddress : BitVec 16
  addressIncrement : BitVec 16
  propertyValueCount : BitVec 16
  propertyValues : Vector Byte 513
deriving DecidableEq, Repr

/-- One packet: the packet field registers, held as numbers with no byte order (R30, R170). -/
structure Packet where
  root : RootLayer
  frame : FramingLayer
  dmp : DmpLayer
deriving DecidableEq, Repr

/-- What a host read names: an output register, or one byte of OUT or IN (20_memory.md R59, R60). -/
inductive HostPort where
  | status | res0 | res1 | outLen | errSeen
  | outByte (i : Nat)
  | inByte (i : Nat)
deriving DecidableEq, Repr

/-- One interaction of the host with the block (00_scope.md R15). Each falls between commands (R59,
R232). -/
inductive HostAction where
  /-- Write one byte of IN. -/
  | writeIn (i : Nat) (b : Byte)
  /-- Drive the `in_len` port. -/
  | setInLen (n : BitVec 16)
  /-- Issue a command word. -/
  | issue (word : Word)
  /-- Read an output register or a buffer byte. -/
  | read (p : HostPort)
  /-- Assert `rst`. -/
  | reset
deriving DecidableEq, Repr

/-- The whole state. `pkt` to `errSeen` are the architectural state (R20); `inBuf` and `inLen` are the
host's, read by commands (R51); `cfg`, `hostScript` and `hostData` are the model's own (logs 5-7). -/
structure State where
  /-- The packet field registers (R21). -/
  pkt : Packet
  /-- PKT_VALID (R29). -/
  pktValid : Bool
  /-- STATUS (R33). -/
  status : BitVec 32
  /-- RES0 (R32). -/
  res0 : BitVec 32
  /-- RES1 (R32). -/
  res1 : BitVec 32
  /-- OUT_LEN (R34). -/
  outLen : BitVec 16
  /-- OUT (R52). -/
  out : Memory
  /-- ERR_SEEN (R35). -/
  errSeen : BitVec 8
  /-- IN (R51). -/
  inBuf : Memory
  /-- The `in_len` port (R51). -/
  inLen : BitVec 16
  /-- MODEL's own: the parameters (R8, log 5). -/
  cfg : Config
  /-- MODEL's own: the host's actions still to come, first one first (R31, log 6). -/
  hostScript : List HostAction
  /-- MODEL's own: what the last host read returned (log 7). -/
  hostData : BitVec 32
deriving DecidableEq, Repr

/-- Why the machine stops. No command stops it: only a host access the spec forbids does. -/
inductive Fault where
  /-- Raised by a host read of OUT[i] with i ≥ OUT_LEN (R52, R241 (d), U2). Safe: the spec gives no
  value and says that a model faults it. -/
  | outReadPastLength
  /-- Raised by a host read of OUT[i] with i < OUT_LEN where nothing was written (U3). Safe, and no
  state with the invariant reaches it. -/
  | outByteHoldsNoValue
  /-- Raised by a host access to IN[i] with i ≥ IN_CAP, an index that does not exist (R50, log 9).
  Safe: the machine stops where the spec gives no effect. -/
  | inIndexOutsideBuffer
deriving DecidableEq, Repr

/-- Why a command would have no meaning here. -/
inductive Refusal where
  /-- Raised by an arm of `exec` with no meaning yet: no arm is left so. Safe. -/
  | notModelled (mnemonic : String)
deriving DecidableEq, Repr

/-- The packet registers at reset. R230 leaves them unspecified: zeros are a DESIGN CHOICE (log 1), and
no command can read them while PKT_VALID = 0 (R231). -/
def Packet.zero : Packet where
  root :=
    { preambleSize := 0, postambleSize := 0, acnPacketIdentifier := Vector.replicate 12 0
      rootFlagsLength := 0, rootVector := 0, componentId := Vector.replicate 16 0 }
  frame :=
    { frameFlagsLength := 0, frameVector := 0, sourceName := Vector.replicate 64 0, priority := 0
      reserved := 0, sequenceNumber := 0, options := 0, dmxUniverse := 0 }
  dmp :=
    { dmpFlagsLength := 0, dmpVector := 0, addressTypeAndDataType := 0, firstPropertyAddress := 0
      addressIncrement := 0, propertyValueCount := 0, propertyValues := Vector.replicate 513 0 }

/-- The machine right after reset (R230). -/
def State.reset : State where
  pkt := Packet.zero
  pktValid := false
  status := 0#32
  res0 := 0#32
  res1 := 0#32
  outLen := 0#16
  out := []
  errSeen := 0#8
  inBuf := []
  inLen := 0#16
  cfg := Config.default
  hostScript := []
  hostData := 0#32

end Sys2Proof.Machine
end

