-- ==== Sys2Proof/Machine/Flags.lean ====
section
/-! DEFINITION. The status values: STATUS (10_state.md R33), the codes and causes (60_exceptions.md R200,
R202) and the sticky mask ERR_SEEN (R35). The block has no arithmetic condition codes (R36). -/

namespace Sys2Proof.Machine

/-- STATUS.CODE of an error (R200). -/
def errorCode : ErrorCode → BitVec 8
  | .outOfRange => 0x01#8
  | .invalidValueCount => 0x02#8
  | .tooShort => 0x03#8
  | .unrecognizedLayer => 0x04#8
  | .noPacket => 0x05#8
  | .illegalCommand => 0x06#8

/-- STATUS = {15'b0, PKT_VALID, CAUSE, CODE} (R33). -/
def statusWord (pktValid : Bool) (cause code : BitVec 8) : BitVec 32 :=
  0#15 ++ BitVec.ofBool pktValid ++ cause ++ code

/-- ERR_SEEN | (1 << (code(E) - 1)) (R35, R205). -/
def recordError (seen : BitVec 8) (e : ErrorCode) : BitVec 8 :=
  seen ||| (1#8 <<< ((errorCode e).toNat - 1))

/-- CAUSE bit 0 of OUT_OF_RANGE: FL_ENCODE flags above 0xF (R202). -/
def causeFlags : BitVec 8 := 0x01#8
/-- CAUSE bit 1 of OUT_OF_RANGE: FL_ENCODE length above 0xFFF (R202). -/
def causeLength : BitVec 8 := 0x02#8
/-- CAUSE bit 2 of OUT_OF_RANGE: CONSTRUCT universe outside 1..63999 (R202). -/
def causeUniverse : BitVec 8 := 0x04#8
/-- TOO_SHORT: DESERIALIZE (R202). -/
def causeShortPacket : BitVec 8 := 0x01#8
/-- TOO_SHORT: CONSTRUCT (R202). -/
def causeShortCid : BitVec 8 := 0x02#8
/-- TOO_SHORT: TO_NETWORK or TO_HOST (R202). -/
def causeShortLayer : BitVec 8 := 0x03#8
/-- ILLEGAL_COMMAND: in_len > IN_CAP (R202). -/
def causeInLen : BitVec 8 := 0x03#8
/-- ILLEGAL_COMMAND: undefined field id (R202). -/
def causeFieldId : BitVec 8 := 0x04#8
/-- The one cause of an error with a single cause (R202). -/
def causeNone : BitVec 8 := 0x00#8

/-- The cause of ILLEGAL_COMMAND that the decoder raises (R90, R91, R202). -/
def decodeCause : DecodeError → BitVec 8
  | .illegalOpcode => 0x01#8
  | .reservedBits => 0x02#8

/-- The OUT_OF_RANGE mask of FL_ENCODE: 0 where both operands are in range (R110). -/
def flEncodeCause (f : BitVec 8) (l : BitVec 16) : BitVec 8 :=
  (if f.toNat > 0xF then causeFlags else 0#8) ||| (if l.toNat > 0xFFF then causeLength else 0#8)

/-- CODE = STATUS[7:0] (R33). -/
def statusCode (st : BitVec 32) : BitVec 8 := st.extractLsb' 0 8
/-- CAUSE = STATUS[15:8] (R33). -/
def statusCause (st : BitVec 32) : BitVec 8 := st.extractLsb' 8 8
/-- The copy of PKT_VALID, STATUS[16] (R33). -/
def statusValid (st : BitVec 32) : Bool := st.getLsbD 16
/-- STATUS[31:17], reserved (R33). -/
def statusReserved (st : BitVec 32) : BitVec 15 := st.extractLsb' 17 15

end Sys2Proof.Machine
end

