-- ==== Sys2Proof/Machine/Layout.lean ====
section
/-! DEFINITION. The constant tables: layer regions (20_memory.md R61, R62), field ids, wire offsets and
kinds (10_state.md R21, 20_memory.md R54), the spans the endianness converter reverses
(42_endianness.md R150), and the bytes of the ACN packet identifier (43_packet.md R175). -/

namespace Sys2Proof.Machine

/-- base(sel): where a layer starts in the wire image (R62). -/
def layerBase : Layer → Nat
  | .root => 0
  | .frame => 38
  | .dmp => 115

/-- size(sel): how many bytes a layer has (R62). -/
def layerSize : Layer → Nat
  | .root => rootLen
  | .frame => frameLen
  | .dmp => dmpLen

/-- The selector of a layer (R62). -/
def layerSel : Layer → BitVec 8
  | .root => 0#8
  | .frame => 1#8
  | .dmp => 2#8

/-- All fields in wire order (R21). -/
def allFields : List Field :=
  [.preambleSize, .postambleSize, .acnPacketIdentifier, .rootFlagsLength, .rootVector, .componentId,
   .frameFlagsLength, .frameVector, .sourceName, .priority, .reserved, .sequenceNumber, .options,
   .dmxUniverse,
   .dmpFlagsLength, .dmpVector, .addressTypeAndDataType, .firstPropertyAddress, .addressIncrement,
   .propertyValueCount, .propertyValues]

/-- The layer column of R21. -/
def fieldLayer : Field → Layer
  | .preambleSize | .postambleSize | .acnPacketIdentifier | .rootFlagsLength | .rootVector
  | .componentId => .root
  | .frameFlagsLength | .frameVector | .sourceName | .priority | .reserved | .sequenceNumber
  | .options | .dmxUniverse => .frame
  | .dmpFlagsLength | .dmpVector | .addressTypeAndDataType | .firstPropertyAddress
  | .addressIncrement | .propertyValueCount | .propertyValues => .dmp

/-- The fid column of R21. -/
def fieldId : Field → BitVec 8
  | .preambleSize => 0x00#8
  | .postambleSize => 0x01#8
  | .acnPacketIdentifier => 0x02#8
  | .rootFlagsLength => 0x03#8
  | .rootVector => 0x04#8
  | .componentId => 0x05#8
  | .frameFlagsLength => 0x10#8
  | .frameVector => 0x11#8
  | .sourceName => 0x12#8
  | .priority => 0x13#8
  | .reserved => 0x14#8
  | .sequenceNumber => 0x15#8
  | .options => 0x16#8
  | .dmxUniverse => 0x17#8
  | .dmpFlagsLength => 0x20#8
  | .dmpVector => 0x21#8
  | .addressTypeAndDataType => 0x22#8
  | .firstPropertyAddress => 0x23#8
  | .addressIncrement => 0x24#8
  | .propertyValueCount => 0x25#8
  | .propertyValues => 0x26#8

/-- The wire off column of R21 and R54. -/
def fieldOffset : Field → Nat
  | .preambleSize => 0
  | .postambleSize => 2
  | .acnPacketIdentifier => 4
  | .rootFlagsLength => 16
  | .rootVector => 18
  | .componentId => 22
  | .frameFlagsLength => 38
  | .frameVector => 40
  | .sourceName => 44
  | .priority => 108
  | .reserved => 109
  | .sequenceNumber => 111
  | .options => 112
  | .dmxUniverse => 113
  | .dmpFlagsLength => 115
  | .dmpVector => 117
  | .addressTypeAndDataType => 118
  | .firstPropertyAddress => 119
  | .addressIncrement => 121
  | .propertyValueCount => 123
  | .propertyValues => 125

/-- The kind column of R21. -/
def fieldKind : Field → FieldKind
  | .preambleSize => .s16
  | .postambleSize => .s16
  | .acnPacketIdentifier => .array identLen
  | .rootFlagsLength => .s16
  | .rootVector => .s32
  | .componentId => .array cidLen
  | .frameFlagsLength => .s16
  | .frameVector => .s32
  | .sourceName => .array nameLen
  | .priority => .s8
  | .reserved => .s16
  | .sequenceNumber => .s8
  | .options => .s8
  | .dmxUniverse => .s16
  | .dmpFlagsLength => .s16
  | .dmpVector => .s8
  | .addressTypeAndDataType => .s8
  | .firstPropertyAddress => .s16
  | .addressIncrement => .s16
  | .propertyValueCount => .s16
  | .propertyValues => .array pvLen

/-- The len column of R21: the wire bytes of a field of this kind. -/
def kindLength : FieldKind → Nat
  | .s8 => 1
  | .s16 => 2
  | .s32 => 4
  | .array n => n

/-- The wire bytes of a field (R21, R54). -/
def fieldLength (f : Field) : Nat := kindLength (fieldKind f)

/-- SPANS(sel): the multi-byte scalars of a layer, as (offset in the layer, width) (R150). -/
def spans : Layer → List (Nat × Nat)
  | .root => [(0, 2), (2, 2), (16, 2), (18, 4)]
  | .frame => [(0, 2), (2, 4), (71, 2), (75, 2)]
  | .dmp => [(0, 2), (4, 2), (6, 2), (8, 2)]

/-- "ASC-E1.17" and three NULs in ASCII (R175, log 16). -/
def acnIdentifier : List Byte :=
  [0x41#8, 0x53#8, 0x43#8, 0x2D#8, 0x45#8, 0x31#8, 0x2E#8, 0x31#8, 0x37#8, 0x00#8, 0x00#8, 0x00#8]

end Sys2Proof.Machine
end

