-- ==== Sys2Proof/Machine/ByteOrder.lean ====
section
/-! DEFINITION. Bytes and numbers: be_N, le_N and from_be (00_scope.md R10), padding and slicing of byte
lists, and the reversal of one span (42_endianness.md R150). -/

namespace Sys2Proof.Machine

/-- be_2(v): most significant byte first (R10). -/
def be2 (v : BitVec 16) : List Byte := [v.extractLsb' 8 8, v.extractLsb' 0 8]

/-- be_4(v) (R10). -/
def be4 (v : BitVec 32) : List Byte :=
  [v.extractLsb' 24 8, v.extractLsb' 16 8, v.extractLsb' 8 8, v.extractLsb' 0 8]

/-- le_2(v): least significant byte first (R10). -/
def le2 (v : BitVec 16) : List Byte := [v.extractLsb' 0 8, v.extractLsb' 8 8]

/-- le_4(v) (R10). -/
def le4 (v : BitVec 32) : List Byte :=
  [v.extractLsb' 0 8, v.extractLsb' 8 8, v.extractLsb' 16 8, v.extractLsb' 24 8]

/-- L[i], where a list that is long enough is read (R10). -/
def byteAt (l : List Byte) (i : Nat) : Byte := l.getD i 0#8

/-- from_be(L[o..o+2)) (R10). -/
def fromBe2 (l : List Byte) (o : Nat) : BitVec 16 := byteAt l o ++ byteAt l (o + 1)

/-- from_be(L[o..o+4)) (R10). -/
def fromBe4 (l : List Byte) (o : Nat) : BitVec 32 :=
  byteAt l o ++ byteAt l (o + 1) ++ byteAt l (o + 2) ++ byteAt l (o + 3)

/-- L[a..a+n) (R10). -/
def slice (l : List Byte) (a n : Nat) : List Byte := (l.drop a).take n

/-- The first n bytes of L followed by NULs up to n (43_packet.md R175, R176). -/
def padTo (n : Nat) (l : List Byte) : List Byte := (l ++ List.replicate n 0x00#8).take n

/-- The n-byte array register that holds L, or L padded or truncated to n bytes (R176). -/
def toArr (n : Nat) (l : List Byte) : Vector Byte n :=
  ⟨(padTo n l).toArray, by simp [padTo]⟩

/-- The image with the w bytes from offset a on in reverse order (R150). -/
def swapSpan (img : List Byte) (span : Nat × Nat) : List Byte :=
  img.take span.1 ++ (slice img span.1 span.2).reverse ++ img.drop (span.1 + span.2)

end Sys2Proof.Machine
end

