-- ==== Sys2Proof/Machine/Image.lean ====
section
/-! DEFINITION. The images of a packet and the transforms over byte lists: WireImage (43_packet.md R172)
and its inverse (R190), HostImage (42_endianness.md R151), SwapImg (R150), Display
(41_layer_accessors.md R120), FL (40_bitfield.md R110), and the field reads of R130. -/

namespace Sys2Proof.Machine

/-- The value of one field register, `x[f]` (00_scope.md R11, 10_state.md R21). -/
def Packet.get (p : Packet) : Field → FieldValue
  | .preambleSize => .s16 p.root.preambleSize
  | .postambleSize => .s16 p.root.postambleSize
  | .acnPacketIdentifier => .array p.root.acnPacketIdentifier.toList
  | .rootFlagsLength => .s16 p.root.rootFlagsLength
  | .rootVector => .s32 p.root.rootVector
  | .componentId => .array p.root.componentId.toList
  | .frameFlagsLength => .s16 p.frame.frameFlagsLength
  | .frameVector => .s32 p.frame.frameVector
  | .sourceName => .array p.frame.sourceName.toList
  | .priority => .s8 p.frame.priority
  | .reserved => .s16 p.frame.reserved
  | .sequenceNumber => .s8 p.frame.sequenceNumber
  | .options => .s8 p.frame.options
  | .dmxUniverse => .s16 p.frame.dmxUniverse
  | .dmpFlagsLength => .s16 p.dmp.dmpFlagsLength
  | .dmpVector => .s8 p.dmp.dmpVector
  | .addressTypeAndDataType => .s8 p.dmp.addressTypeAndDataType
  | .firstPropertyAddress => .s16 p.dmp.firstPropertyAddress
  | .addressIncrement => .s16 p.dmp.addressIncrement
  | .propertyValueCount => .s16 p.dmp.propertyValueCount
  | .propertyValues => .array p.dmp.propertyValues.toList

/-- A field value in wire order: scalars big-endian, arrays as they are (20_memory.md R55). -/
def wireBytes : FieldValue → List Byte
  | .s8 v => [v]
  | .s16 v => be2 v
  | .s32 v => be4 v
  | .array bs => bs

/-- A field value in host order: scalars little-endian, arrays as they are (R56, R151). -/
def hostBytes : FieldValue → List Byte
  | .s8 v => [v]
  | .s16 v => le2 v
  | .s32 v => le4 v
  | .array bs => bs

/-- WireImage(P): the 638-byte list of R172. -/
def wireImage (p : Packet) : List Byte :=
  be2 p.root.preambleSize ++ be2 p.root.postambleSize ++ p.root.acnPacketIdentifier.toList
    ++ be2 p.root.rootFlagsLength ++ be4 p.root.rootVector ++ p.root.componentId.toList
    ++ be2 p.frame.frameFlagsLength ++ be4 p.frame.frameVector ++ p.frame.sourceName.toList
    ++ [p.frame.priority] ++ be2 p.frame.reserved ++ [p.frame.sequenceNumber] ++ [p.frame.options]
    ++ be2 p.frame.dmxUniverse
    ++ be2 p.dmp.dmpFlagsLength ++ [p.dmp.dmpVector] ++ [p.dmp.addressTypeAndDataType]
    ++ be2 p.dmp.firstPropertyAddress ++ be2 p.dmp.addressIncrement
    ++ be2 p.dmp.propertyValueCount ++ p.dmp.propertyValues.toList

/-- The wire bytes of one layer, WireImage(P)[base(sel) .. base(sel) + size(sel)) (R62, R185). -/
def layerImage (l : Layer) (p : Packet) : List Byte := slice (wireImage p) (layerBase l) (layerSize l)

/-- HostImage(sel, P): the layer's fields in wire order with each scalar little-endian (R151). -/
def hostImage (l : Layer) (p : Packet) : List Byte :=
  (allFields.filter (fun f => fieldLayer f = l)).flatMap (fun f => hostBytes (p.get f))

/-- SwapImg(sel, img): every multi-byte scalar span reversed, every other byte copied (R150). -/
def swapImg (l : Layer) (img : List Byte) : List Byte := (spans l).foldl swapSpan img

/-- The packet that DESERIALIZE loads from the wire image b: each field from its own offset (R190). -/
def packetOfWire (b : List Byte) : Packet where
  root :=
    { preambleSize := fromBe2 b (fieldOffset .preambleSize)
      postambleSize := fromBe2 b (fieldOffset .postambleSize)
      acnPacketIdentifier := toArr 12 (slice b (fieldOffset .acnPacketIdentifier) 12)
      rootFlagsLength := fromBe2 b (fieldOffset .rootFlagsLength)
      rootVector := fromBe4 b (fieldOffset .rootVector)
      componentId := toArr 16 (slice b (fieldOffset .componentId) 16) }
  frame :=
    { frameFlagsLength := fromBe2 b (fieldOffset .frameFlagsLength)
      frameVector := fromBe4 b (fieldOffset .frameVector)
      sourceName := toArr 64 (slice b (fieldOffset .sourceName) 64)
      priority := byteAt b (fieldOffset .priority)
      reserved := fromBe2 b (fieldOffset .reserved)
      sequenceNumber := byteAt b (fieldOffset .sequenceNumber)
      options := byteAt b (fieldOffset .options)
      dmxUniverse := fromBe2 b (fieldOffset .dmxUniverse) }
  dmp :=
    { dmpFlagsLength := fromBe2 b (fieldOffset .dmpFlagsLength)
      dmpVector := byteAt b (fieldOffset .dmpVector)
      addressTypeAndDataType := byteAt b (fieldOffset .addressTypeAndDataType)
      firstPropertyAddress := fromBe2 b (fieldOffset .firstPropertyAddress)
      addressIncrement := fromBe2 b (fieldOffset .addressIncrement)
      propertyValueCount := fromBe2 b (fieldOffset .propertyValueCount)
      propertyValues := toArr 513 (slice b (fieldOffset .propertyValues) 513) }

/-- FL(f, l) = (f << 12) | l, the FlagsLength word (40_bitfield.md R110). -/
def packFlagsLength (f l : BitVec 16) : BitVec 16 := (f <<< 12) ||| l

/-- The flags of a FlagsLength word, bits [15:12] (10_state.md R25, R111). -/
def flagsOf (fl : BitVec 16) : BitVec 16 := fl >>> 12

/-- The length of a FlagsLength word, bits [11:0] (R25, R111). -/
def lengthOf (fl : BitVec 16) : BitVec 16 := fl &&& 0x0FFF#16

/-- The FlagsLength register of a layer (R122). -/
def flagsLengthOf (p : Packet) : Layer → BitVec 16
  | .root => p.root.rootFlagsLength
  | .frame => p.frame.frameFlagsLength
  | .dmp => p.dmp.dmpFlagsLength

/-- The packet that CONSTRUCT makes of a component id, a universe and name bytes (R175, R176). -/
def constructed (cid : List Byte) (u : BitVec 16) (name : List Byte) : Packet where
  root :=
    { preambleSize := 0x0010#16
      postambleSize := 0x0000#16
      acnPacketIdentifier := toArr 12 acnIdentifier
      rootFlagsLength := packFlagsLength 7#16 638#16
      rootVector := 0x00000004#32
      componentId := toArr 16 cid }
  frame :=
    { frameFlagsLength := packFlagsLength 7#16 600#16
      frameVector := 0x00000002#32
      sourceName := toArr 64 name
      priority := 100#8
      reserved := 0x0000#16
      sequenceNumber := 1#8
      options := 0#8
      dmxUniverse := u }
  dmp :=
    { dmpFlagsLength := packFlagsLength 7#16 523#16
      dmpVector := 0x02#8
      addressTypeAndDataType := 0xA1#8
      firstPropertyAddress := 0x0000#16
      addressIncrement := 0x0001#16
      propertyValueCount := 513#16
      propertyValues := Vector.replicate 513 0x00#8 }

/-- A NUL byte as a space, every other byte as it is (41_layer_accessors.md R120). -/
def nulToSpace (b : Byte) : Byte := if b = 0x00#8 then 0x20#8 else b

/-- The list without its leading bytes of the trim set (R120). -/
def trimFront (trimSet : List Byte) (l : List Byte) : List Byte := l.dropWhile (trimSet.contains ·)

/-- Display(L): every NUL becomes a space, then both ends are trimmed (R120, R121). -/
def display (trimSet : List Byte) (l : List Byte) : List Byte :=
  (trimFront trimSet (trimFront trimSet (l.map nulToSpace)).reverse).reverse

/-- The decoded options of R125 beside the raw byte: [9] preview, [8] terminated, [7:0] raw. -/
def optionsWord (o : BitVec 8) : BitVec 32 := (o.extractLsb' 7 1 ++ o.extractLsb' 6 1 ++ o).setWidth 32

end Sys2Proof.Machine
end

