-- ==== Sys2Proof/Machine/Ops.lean ====
section
/-! DEFINITION. The named operations over buffers and registers (00_scope.md R11): reads and block writes
of a byte buffer, MemRead, MemWrite, the error step (60_exceptions.md R205) and the success step (R206).
The error step is this block's taking of an exception; it has no return (R209, R210). -/

namespace Sys2Proof.Machine

/-- The byte at an index, if one is listed. -/
def Memory.read (m : Memory) (i : Nat) : Option Byte := m.lookup i

/-- Bytes at successive indices from i on. -/
def cellsFrom (i : Nat) : List Byte → Memory
  | [] => []
  | b :: bs => (i, b) :: cellsFrom (i + 1) bs

/-- Write bytes at indices i, i+1, ...: every other index keeps its byte. -/
def Memory.writeBlock (m : Memory) (i : Nat) (bs : List Byte) : Memory :=
  m.filter (fun c => c.1 < i) ++ cellsFrom i bs ++ m.filter (fun c => i + bs.length ≤ c.1)

/-- IN[i]: the byte the host wrote, or the free value where it wrote none (20_memory.md R51, U4, log 3). -/
def State.inAt (s : State) (i : Nat) : Byte := (s.inBuf.read i).getD (Config.inUnwritten i)

/-- MemRead(addr, n): IN[addr..addr+n) (R11). -/
def State.memRead (s : State) (addr n : Nat) : List Byte :=
  (List.range n).map (fun k => s.inAt (addr + k))

/-- MemWrite(addr, n, v): OUT[addr..addr+n) (R11). -/
def State.memWrite (s : State) (addr : Nat) (v : List Byte) : State :=
  { s with out := s.out.writeBlock addr v }

/-- The error step (R205). -/
def State.raise (s : State) (e : ErrorCode) (cause : BitVec 8) : State :=
  { s with
    status := statusWord s.pktValid cause (errorCode e)
    res0 := 0#32
    res1 := 0#32
    outLen := 0#16
    errSeen := recordError s.errSeen e }

/-- The success step: STATUS with PKT_VALID as the command leaves it, and the returned results (R206). -/
def State.respond (s : State) (res0 res1 : BitVec 32) (outLen : Nat) : State :=
  { s with
    status := statusWord s.pktValid 0#8 0#8
    res0 := res0
    res1 := res1
    outLen := BitVec.ofNat 16 outLen }

/-- `x[...] <- ...`: write packet field registers (R11). -/
def State.setPacket (s : State) (p : Packet) : State := { s with pkt := p }

/-- PKT_VALID <- 1 (10_state.md R29). -/
def State.setValid (s : State) : State := { s with pktValid := true }

/-- x[sequence_number] <- v (41_layer_accessors.md R126). -/
def Packet.withSequence (p : Packet) (v : BitVec 8) : Packet :=
  { p with frame := { p.frame with sequenceNumber := v } }

/-- x[property_values] <- [sc] ++ vals (43_packet.md R178). -/
def Packet.withValues (p : Packet) (sc : BitVec 8) (vals : List Byte) : Packet :=
  { p with dmp := { p.dmp with propertyValues := toArr 513 (sc :: vals) } }

/-- A response is the next state of the step: every command answers one (R206, 70_reset_and_hazards.md
R245). -/
def answer (s : State) : Host.Outcome State Fault Refusal := .next s

/-- ILLEGAL_COMMAND for a word that is no command (R90, R91): only the output registers change. -/
def rejectWord (e : DecodeError) (s : State) : Host.Outcome State Fault Refusal :=
  answer (s.raise .illegalCommand (decodeCause e))

end Sys2Proof.Machine
end

