-- ==== Sys2Proof/Machine/Operands.lean ====
section
/-! DEFINITION. Operands: the layer a selector names (20_memory.md R62), the field a field id names
(20_memory.md R53), and the operands a command takes from IN (30_encoding.md R94). -/

namespace Sys2Proof.Machine

/-- The layer of a selector: 0, 1 or 2; any other selects none (R62). -/
def layerOfSel (sel : BitVec 8) : Option Layer :=
  match sel.toNat with
  | 0 => some .root
  | 1 => some .frame
  | 2 => some .dmp
  | _ => none

/-- The field of a field id; an id that is not in the table names none (R53). -/
def fieldOfId (fid : BitVec 8) : Option Field := allFields.find? (fun f => fieldId f = fid)

/-- in_len > IN_CAP, the first check of a command that reads IN (R51). -/
def State.inTooLong (s : State) : Bool := s.inLen.toNat > s.cfg.inCap

/-- IN[0..16), CONSTRUCT's component id (R94). -/
def State.cidOperand (s : State) : List Byte := s.memRead 0 cidLen

/-- IN[16..in_len), CONSTRUCT's name bytes (R94). -/
def State.nameOperand (s : State) : List Byte := s.memRead cidLen (s.inLen.toNat - cidLen)

/-- IN[0..512), UPDATE's slot values (R94). -/
def State.valuesOperand (s : State) : List Byte := s.memRead 0 dmxSlots

/-- IN[0..638), DESERIALIZE's wire image (R94). -/
def State.packetOperand (s : State) : List Byte := s.memRead 0 pktLen

/-- IN[0..size(sel)), the image that TO_NETWORK and TO_HOST convert (R94). -/
def State.layerOperand (s : State) (l : Layer) : List Byte := s.memRead 0 (layerSize l)

/-- A universe that CONSTRUCT accepts: 1 to 63999 (43_packet.md R175). -/
def universeOk (u : BitVec 16) : Bool := decide (1 ≤ u.toNat) && decide (u.toNat ≤ 63999)

end Sys2Proof.Machine
end

