-- ==== Sys2Proof/Machine/Accessors.lean ====
section
/-! DEFINITION. The layer accessors (41_layer_accessors.md): LAYER_INFO, ROOT_SPLIT, FRAME_SPLIT,
SET_SEQUENCE, DMP_GET_START_CODE, DMP_GET_VALUES and READ_FIELD. -/

namespace Sys2Proof.Machine

/-- LAYER_INFO: RES0 is the length, RES1 the flags (R122). -/
def execLayerInfo (sel : BitVec 8) (s : State) : Host.Outcome State Fault Refusal :=
  match layerOfSel sel with
  | none => answer (s.raise .unrecognizedLayer causeNone)
  | some l =>
    if s.pktValid = false then answer (s.raise .noPacket causeNone)
    else
      let fl := flagsLengthOf s.pkt l
      answer (s.respond ((lengthOf fl).setWidth 32) ((flagsOf fl).setWidth 32) 0)

/-- ROOT_SPLIT: the component id, then the display identifier (R123). -/
def execRootSplit (s : State) : Host.Outcome State Fault Refusal :=
  if s.pktValid = false then answer (s.raise .noPacket causeNone)
  else
    let d := display s.cfg.trimSet s.pkt.root.acnPacketIdentifier.toList
    let s1 := s.memWrite 0 s.pkt.root.componentId.toList
    let s2 := s1.memWrite 16 d
    answer (s2.respond (BitVec.ofNat 32 d.length) 0#32 (16 + d.length))

/-- FRAME_SPLIT: the display name; RES0 = {priority, sequence_number, universe}, RES1 the options
(R124, R125). -/
def execFrameSplit (s : State) : Host.Outcome State Fault Refusal :=
  if s.pktValid = false then answer (s.raise .noPacket causeNone)
  else
    let d := display s.cfg.trimSet s.pkt.frame.sourceName.toList
    let f := s.pkt.frame
    answer ((s.memWrite 0 d).respond (f.priority ++ f.sequenceNumber ++ f.dmxUniverse)
      (optionsWord f.options) d.length)

/-- SET_SEQUENCE: v mod 256 becomes the sequence number (R126). -/
def execSetSequence (v : BitVec 24) (s : State) : Host.Outcome State Fault Refusal :=
  if s.pktValid = false then answer (s.raise .noPacket causeNone)
  else
    let q : BitVec 8 := BitVec.ofNat 8 (v.toNat % 256)
    answer ((s.setPacket (s.pkt.withSequence q)).respond (q.setWidth 32) 0#32 0)

/-- DMP_GET_START_CODE: property_values[0] (R127). -/
def execDmpGetStartCode (s : State) : Host.Outcome State Fault Refusal :=
  if s.pktValid = false then answer (s.raise .noPacket causeNone)
  else answer (s.respond ((byteAt s.pkt.dmp.propertyValues.toList 0).setWidth 32) 0#32 0)

/-- DMP_GET_VALUES: property_values[1..513), whatever property_value_count holds (R128). -/
def execDmpGetValues (s : State) : Host.Outcome State Fault Refusal :=
  if s.pktValid = false then answer (s.raise .noPacket causeNone)
  else
    answer ((s.memWrite 0 (slice s.pkt.dmp.propertyValues.toList 1 dmxSlots)).respond
      (BitVec.ofNat 32 dmxSlots) 0#32 dmxSlots)

/-- The output form of a field read: a scalar in RES0, an array in OUT with its length in RES0 (R130). -/
def State.respondField (s : State) : FieldValue → State
  | .s8 v => s.respond (v.setWidth 32) 0#32 0
  | .s16 v => s.respond (v.setWidth 32) 0#32 0
  | .s32 v => s.respond v 0#32 0
  | .array bs => (s.memWrite 0 bs).respond (BitVec.ofNat 32 bs.length) 0#32 bs.length

/-- READ_FIELD (R131). -/
def execReadField (fid : BitVec 8) (s : State) : Host.Outcome State Fault Refusal :=
  match fieldOfId fid with
  | none => answer (s.raise .illegalCommand causeFieldId)
  | some f =>
    if s.pktValid = false then answer (s.raise .noPacket causeNone)
    else answer (s.respondField (s.pkt.get f))

end Sys2Proof.Machine
end

