-- ==== Sys2Proof/Machine/BitField.lean ====
section
/-! DEFINITION. The FlagsLength bit-packer: FL_ENCODE and FL_DECODE (40_bitfield.md R110, R111). -/

namespace Sys2Proof.Machine

/-- FL_ENCODE (R110). -/
def execFlEncode (flg : BitVec 8) (len : BitVec 16) (s : State) : Host.Outcome State Fault Refusal :=
  let cause := flEncodeCause flg len
  if cause ≠ 0#8 then answer (s.raise .outOfRange cause)
  else answer (s.respond ((packFlagsLength (flg.setWidth 16) len).setWidth 32) 0#32 0)

/-- FL_DECODE: RES0 is the flags, RES1 the length (R111). -/
def execFlDecode (w : BitVec 16) (s : State) : Host.Outcome State Fault Refusal :=
  answer (s.respond ((flagsOf w).setWidth 32) ((lengthOf w).setWidth 32) 0)

end Sys2Proof.Machine
end

