-- ==== Sys2Proof/Machine/Endianness.lean ====
section
/-! DEFINITION. The endianness converter: TO_NETWORK and TO_HOST (42_endianness.md R153, R154). -/

namespace Sys2Proof.Machine

/-- The conversion both commands make of the image in IN, a permutation that is its own inverse (R153,
R154, R155). -/
def convertLayer (sel : BitVec 8) (s : State) : Host.Outcome State Fault Refusal :=
  if s.inTooLong then answer (s.raise .illegalCommand causeInLen)
  else
    match layerOfSel sel with
    | none => answer (s.raise .unrecognizedLayer causeNone)
    | some l =>
      if s.inLen.toNat < layerSize l then answer (s.raise .tooShort causeShortLayer)
      else
        answer ((s.memWrite 0 (swapImg l (s.layerOperand l))).respond
          (BitVec.ofNat 32 (layerSize l)) 0#32 (layerSize l))

/-- TO_NETWORK: the image in IN from host order to network order (R153). -/
def execToNetwork (sel : BitVec 8) (s : State) : Host.Outcome State Fault Refusal := convertLayer sel s

/-- TO_HOST: the image in IN from network order to host order (R154). -/
def execToHost (sel : BitVec 8) (s : State) : Host.Outcome State Fault Refusal := convertLayer sel s

end Sys2Proof.Machine
end

