-- ==== Sys2Proof/Machine/PacketOps.lean ====
section
/-! DEFINITION. The packet operations: CONSTRUCT, UPDATE, SERIALIZE, SERIALIZE_LAYER and DESERIALIZE
(43_packet.md R175-R193). -/

namespace Sys2Proof.Machine

/-- CONSTRUCT: the universe is checked before the length (R175, R203). -/
def execConstruct (u : BitVec 16) (s : State) : Host.Outcome State Fault Refusal :=
  if s.inTooLong then answer (s.raise .illegalCommand causeInLen)
  else if universeOk u = false then answer (s.raise .outOfRange causeUniverse)
  else if s.inLen.toNat < cidLen then answer (s.raise .tooShort causeShortCid)
  else
    answer ((s.setPacket (constructed s.cidOperand u s.nameOperand)).setValid.respond 0#32 0#32 0)

/-- UPDATE: the value block becomes the start code and the 512 slots, and the sequence number is stored
as given (R178). -/
def execUpdate (sc seq : BitVec 8) (s : State) : Host.Outcome State Fault Refusal :=
  if s.inTooLong then answer (s.raise .illegalCommand causeInLen)
  else if s.pktValid = false then answer (s.raise .noPacket causeNone)
  else if s.inLen.toNat ≠ dmxSlots then answer (s.raise .invalidValueCount causeNone)
  else
    answer ((s.setPacket ((s.pkt.withValues sc s.valuesOperand).withSequence seq)).respond
      0#32 0#32 0)

/-- SERIALIZE: the 638-byte wire image; the packet registers are not modified (R182). -/
def execSerialize (s : State) : Host.Outcome State Fault Refusal :=
  if s.pktValid = false then answer (s.raise .noPacket causeNone)
  else
    answer ((s.memWrite 0 (wireImage s.pkt)).respond (BitVec.ofNat 32 pktLen) 0#32 pktLen)

/-- SERIALIZE_LAYER: the wire bytes of one layer (R185). -/
def execSerializeLayer (sel : BitVec 8) (s : State) : Host.Outcome State Fault Refusal :=
  match layerOfSel sel with
  | none => answer (s.raise .unrecognizedLayer causeNone)
  | some l =>
    if s.pktValid = false then answer (s.raise .noPacket causeNone)
    else
      answer ((s.memWrite 0 (layerImage l s.pkt)).respond
        (BitVec.ofNat 32 (layerSize l)) 0#32 (layerSize l))

/-- DESERIALIZE: every field from its offset of IN[0..638), with no check but the length (R190, R193). -/
def execDeserialize (s : State) : Host.Outcome State Fault Refusal :=
  if s.inTooLong then answer (s.raise .illegalCommand causeInLen)
  else if s.inLen.toNat < pktLen then answer (s.raise .tooShort causeShortPacket)
  else
    answer ((s.setPacket (packetOfWire s.packetOperand)).setValid.respond
      (BitVec.ofNat 32 pktLen) 0#32 0)

end Sys2Proof.Machine
end

