-- ==== Sys2Proof/Machine/Dispatch.lean ====
section
/-! DEFINITION. One arm per command (30_encoding.md R89). -/

namespace Sys2Proof.Machine

def exec (i : Instr) (s : State) : Host.Outcome State Fault Refusal :=
  match i with
  | .flEncode flg len => Sys2Proof.Machine.execFlEncode flg len s
  | .flDecode w => Sys2Proof.Machine.execFlDecode w s
  | .layerInfo sel => Sys2Proof.Machine.execLayerInfo sel s
  | .rootSplit => Sys2Proof.Machine.execRootSplit s
  | .frameSplit => Sys2Proof.Machine.execFrameSplit s
  | .setSequence v => Sys2Proof.Machine.execSetSequence v s
  | .dmpGetStartCode => Sys2Proof.Machine.execDmpGetStartCode s
  | .dmpGetValues => Sys2Proof.Machine.execDmpGetValues s
  | .readField fid => Sys2Proof.Machine.execReadField fid s
  | .toNetwork sel => Sys2Proof.Machine.execToNetwork sel s
  | .toHost sel => Sys2Proof.Machine.execToHost sel s
  | .construct u => Sys2Proof.Machine.execConstruct u s
  | .update sc seq => Sys2Proof.Machine.execUpdate sc seq s
  | .serialize => Sys2Proof.Machine.execSerialize s
  | .serializeLayer sel => Sys2Proof.Machine.execSerializeLayer sel s
  | .deserialize => Sys2Proof.Machine.execDeserialize s

end Sys2Proof.Machine
end

