-- ==== Sys2Proof/Machine/Host.lean ====
section
/-! DEFINITION. The host's interactions (00_scope.md R15): the next of them, and the effect of each that
is no command. -/

namespace Sys2Proof.Machine

/-- The host's next action and the state with it taken, or none where the codec waits (log 6). -/
def State.nextAction (s : State) : Option (HostAction × State) :=
  match s.hostScript with
  | [] => none
  | a :: rest => some (a, { s with hostScript := rest })

/-- The host writes IN[i]; an index past IN_CAP does not exist (20_memory.md R50, R51, log 9). -/
def hostWriteIn (i : Nat) (b : Byte) (s : State) : Host.Outcome State Fault Refusal :=
  if i < s.cfg.inCap then .next { s with inBuf := s.inBuf.writeBlock i [b] }
  else .fault .inIndexOutsideBuffer

/-- The host drives in_len (R51). -/
def hostSetInLen (n : BitVec 16) (s : State) : Host.Outcome State Fault Refusal :=
  .next { s with inLen := n }

/-- What a host read returns. A byte of OUT at or past OUT_LEN has no value: the read faults (R52,
R241 (d), log 10). -/
def hostReadValue (p : HostPort) (s : State) : Except Fault (BitVec 32) :=
  match p with
  | .status => .ok s.status
  | .res0 => .ok s.res0
  | .res1 => .ok s.res1
  | .outLen => .ok (s.outLen.setWidth 32)
  | .errSeen => .ok (s.errSeen.setWidth 32)
  | .outByte i =>
    if i < s.outLen.toNat then
      match s.out.read i with
      | some b => .ok (b.setWidth 32)
      | none => .error .outByteHoldsNoValue
    else .error .outReadPastLength
  | .inByte i =>
    if i < s.cfg.inCap then .ok ((s.inAt i).setWidth 32) else .error .inIndexOutsideBuffer

/-- A host read: no side effect on the block (R60); the value goes to the host (log 7). -/
def hostRead (p : HostPort) (s : State) : Host.Outcome State Fault Refusal :=
  match hostReadValue p s with
  | .ok v => .next { s with hostData := v }
  | .error f => .fault f

/-- The host asserts rst between commands: the reset values of 70_reset_and_hazards.md R230. IN is not
cleared, and what the host holds is its own (R230, R232, log 8). -/
def hostReset (s : State) : Host.Outcome State Fault Refusal :=
  .next { State.reset with
    inBuf := s.inBuf, inLen := s.inLen, cfg := s.cfg, hostScript := s.hostScript
    hostData := s.hostData }

end Sys2Proof.Machine
end

