-- ==== Sys2Proof/Machine/Step.lean ====
section
/-! DEFINITION. One step: the host's next action. A command word is decoded and performed whole
(20_memory.md R59, R64; 30_encoding.md R93); with no action left the codec waits
(70_reset_and_hazards.md R233). -/

namespace Sys2Proof.Machine

/-- Perform one command word: decode it, then run the command or raise the decoder's error (R93). -/
def runWord (word : Word) (s : State) : Host.Outcome State Fault Refusal :=
  match decode word with
  | .ok i => exec i s
  | .error e => rejectWord e s

/-- Perform one host action. -/
def perform (a : HostAction) (s : State) : Host.Outcome State Fault Refusal :=
  match a with
  | .writeIn i b => hostWriteIn i b s
  | .setInLen n => hostSetInLen n s
  | .issue word => runWord word s
  | .read p => hostRead p s
  | .reset => hostReset s

/-- One step of the machine. -/
def step (s : State) : Host.Outcome State Fault Refusal :=
  match s.nextAction with
  | none => .next s
  | some (a, s') => perform a s'

/-- `s` with the host about to issue the command word whose table bits are `w` (log 6). -/
def State.withFetchWord (s : State) (nbits w : Nat) : State :=
  { s with hostScript := .issue (BitVec.ofNat 32 (w % 2 ^ nbits)) :: s.hostScript }

end Sys2Proof.Machine
end

