-- ==== Sys2Proof/Machine/Assembler.lean ====
section
/-! DEFINITION. The assembler: the syntax and the two host directives of 30_encoding.md R95 and the
pseudo-instructions of R96. A text becomes the host's actions, or the first error of it. What R95 leaves
open is fixed by log 14. -/

namespace Sys2Proof.Machine

/-- The pseudo-instructions (R96). -/
inductive Pseudo where
  | send (sc seq : BitVec 8)
  | flPack (len : BitVec 16)
  | getSeq | getUniverse | getCid | getNameRaw
deriving DecidableEq, Repr

/-- The expansion column of R96. -/
def expand : Pseudo → List Instr
  | .send sc seq => [.update sc seq, .serialize]
  | .flPack len => [.flEncode 7#8 len]
  | .getSeq => [.readField 0x15#8]
  | .getUniverse => [.readField 0x17#8]
  | .getCid => [.readField 0x05#8]
  | .getNameRaw => [.readField 0x12#8]

/-- One token of a line. -/
inductive Token where
  | name (s : String)
  | num (n : Nat)
  | text (s : List Char)
  | comma | plusPlus | lparen | rparen | lbracket | rbracket
deriving DecidableEq, Repr

/-- Why a line is no line of the syntax. -/
inductive AsmError where
  /-- A character, a number or a quote that forms no token. -/
  | badToken
  /-- A line whose first token is no mnemonic, pseudo-instruction or directive. -/
  | unknownMnemonic
  /-- Operands of another number or form than the mnemonic takes. -/
  | badOperands
  /-- A number that does not fit the field it is for. -/
  | outOfField
deriving DecidableEq, Repr

-- Tokens

/-- The value of a hexadecimal digit. DESIGN CHOICE: R95 does not say the case of the letters, and the model
takes both (log 14). -/
def hexDigit (c : Char) : Option Nat :=
  if '0' ≤ c ∧ c ≤ '9' then some (c.toNat - '0'.toNat)
  else if 'a' ≤ c ∧ c ≤ 'f' then some (c.toNat - 'a'.toNat + 10)
  else if 'A' ≤ c ∧ c ≤ 'F' then some (c.toNat - 'A'.toNat + 10)
  else none

/-- The number that digits of a base write, after the number read so far. -/
def readDigits (base : Nat) : Nat → List Char → Option Nat
  | n, [] => some n
  | n, c :: cs =>
    match hexDigit c with
    | some d => if d < base then readDigits base (n * base + d) cs else none
    | none => none

/-- A number, decimal or `0x` hexadecimal (R95). DESIGN CHOICE: the prefix has a small x only, and leading
zeros are allowed (log 14). -/
def readNumber (cs : List Char) : Option Nat :=
  match cs with
  | '0' :: 'x' :: d :: ds => readDigits 16 0 (d :: ds)
  | d :: ds => readDigits 10 0 (d :: ds)
  | [] => none

/-- A run of word characters as a token: a number where it starts with a digit, else a name (DESIGN CHOICE,
log 14). -/
def wordToken (cs : List Char) : Option Token :=
  match cs with
  | [] => none
  | c :: _ =>
    if c.isDigit then (readNumber cs).map .num else some (.name (String.ofList cs))

/-- Where the lexer stands in a line. -/
inductive LexMode where
  | plain | text | plus | comment | bad
deriving DecidableEq, Repr

/-- The lexer's state: the tokens so far and the characters of the token it is in, both last first. -/
structure Lexer where
  mode : LexMode
  current : List Char
  tokens : List Token
deriving DecidableEq, Repr

/-- End the word the lexer is in. -/
def Lexer.flush (l : Lexer) : Lexer :=
  match l.current with
  | [] => l
  | c :: cs =>
    match wordToken (c :: cs).reverse with
    | some t => { l with current := [], tokens := t :: l.tokens }
    | none => { l with mode := .bad }

/-- Add a one-character token after the word. -/
def Lexer.push (l : Lexer) (t : Token) : Lexer :=
  let f := l.flush
  { f with tokens := t :: f.tokens }

/-- The double quote. -/
def quoteChar : Char := Char.ofNat 0x22

/-- A character of a mnemonic, a directive, an operand name or a number: a letter, a digit, `_` or `.`
(DESIGN CHOICE, log 14). -/
def wordChar (c : Char) : Bool := c.isAlphanum || c = '_' || c = '.'

/-- One character outside text and comment. DESIGN CHOICE: R95 does not say what separates tokens. In the
model a space, a tab, a carriage return and every punctuation token end a word, separators may stand anywhere
between tokens, and a character of no token makes the line an error (log 14). -/
def Lexer.plainChar (l : Lexer) (c : Char) : Lexer :=
  if wordChar c then { l with current := c :: l.current }
  else if c = ' ' || c = '\t' || c = '\r' then l.flush
  else if c = ',' then l.push .comma
  else if c = '(' then l.push .lparen
  else if c = ')' then l.push .rparen
  else if c = '[' then l.push .lbracket
  else if c = ']' then l.push .rbracket
  else
    let f := l.flush
    if f.mode ≠ .plain then f
    else if c = '+' then { f with mode := .plus }
    else if c = ';' then { f with mode := .comment }
    else if c = quoteChar then { f with mode := .text }
    else { f with mode := .bad }

/-- One character of a line. A `;` starts a comment, but not inside `"text"` (R95, log 14). -/
def Lexer.char (l : Lexer) (c : Char) : Lexer :=
  match l.mode with
  | .plain => l.plainChar c
  | .text =>
    if c = quoteChar then
      { l with mode := .plain, current := [], tokens := .text l.current.reverse :: l.tokens }
    else { l with current := c :: l.current }
  | .plus =>
    if c = '+' then { l with mode := .plain, tokens := .plusPlus :: l.tokens }
    else { l with mode := .bad }
  | .comment => l
  | .bad => l

/-- The tokens of a line. -/
def tokenize (line : List Char) : Except AsmError (List Token) :=
  let l := (line.foldl Lexer.char ⟨.plain, [], []⟩)
  match l.mode with
  | .plain =>
    let f := l.flush
    if f.mode = .plain then .ok f.tokens.reverse else .error .badToken
  | .comment => .ok l.tokens.reverse
  | _ => .error .badToken

-- Byte lists

/-- A number as a byte. DESIGN CHOICE: a number above 255 is an error (log 14). -/
def byteOf (n : Nat) : Except AsmError Byte :=
  if n < 256 then .ok (BitVec.ofNat 8 n) else .error .outOfField

/-- The elements of `[b, ...]` after the bracket, and what follows it. -/
def bracketBytes : List Token → Except AsmError (List Byte × List Token)
  | .num n :: .rbracket :: rest =>
    match byteOf n with
    | .ok b => .ok ([b], rest)
    | .error e => .error e
  | .num n :: .comma :: rest =>
    match byteOf n, bracketBytes rest with
    | .ok b, .ok (bs, r) => .ok (b :: bs, r)
    | .error e, _ => .error e
    | _, .error e => .error e
  | _ => .error .badOperands

/-- The ASCII bytes of a text (R95). -/
def asciiBytes : List Char → Except AsmError (List Byte)
  | [] => .ok []
  | c :: cs =>
    match asciiBytes cs with
    | .ok bs => if c.toNat < 128 then .ok (BitVec.ofNat 8 c.toNat :: bs) else .error .badToken
    | .error e => .error e

/-- One part of a byte list: `repeat(n, b)`, `"text"` or `[b, ...]` (R95). -/
def bytePart : List Token → Except AsmError (List Byte × List Token)
  | .name "repeat" :: .lparen :: .num n :: .comma :: .num b :: .rparen :: rest =>
    match byteOf b with
    | .ok v => if n < 65536 then .ok (List.replicate n v, rest) else .error .outOfField
    | .error e => .error e
  | .text cs :: rest =>
    match asciiBytes cs with
    | .ok bs => .ok (bs, rest)
    | .error e => .error e
  | .lbracket :: .rbracket :: rest => .ok ([], rest)
  | .lbracket :: rest => bracketBytes rest
  | _ => .error .badOperands

/-- A byte list: parts joined by `++` (R95). `fuel` is a bound on the parts. -/
def byteList : Nat → List Token → Except AsmError (List Byte)
  | 0, _ => .error .badOperands
  | fuel + 1, ts =>
    match bytePart ts with
    | .error e => .error e
    | .ok (bs, []) => .ok bs
    | .ok (bs, .plusPlus :: rest) =>
      match byteList fuel rest with
      | .ok more => .ok (bs ++ more)
      | .error e => .error e
    | .ok _ => .error .badOperands

-- Operands

/-- A number as an operand of n bits. DESIGN CHOICE: a number that does not fit is an error (log 14). -/
def operandOf (n v : Nat) : Except AsmError (BitVec n) :=
  if v < 2 ^ n then .ok (BitVec.ofNat n v) else .error .outOfField

/-- The selector names: `ROOT` (0), `FRAME` (1), `DMP` (2) (R95). -/
def selectorOfName (s : String) : Option (BitVec 8) :=
  if s = "ROOT" then some (layerSel .root)
  else if s = "FRAME" then some (layerSel .frame)
  else if s = "DMP" then some (layerSel .dmp)
  else none

/-- The register column of 10_state.md R21. -/
def registerName : Field → String
  | .preambleSize => "preamble_size"
  | .postambleSize => "postamble_size"
  | .acnPacketIdentifier => "acn_packet_identifier"
  | .rootFlagsLength => "root_flags_length"
  | .rootVector => "root_vector"
  | .componentId => "component_id"
  | .frameFlagsLength => "frame_flags_length"
  | .frameVector => "frame_vector"
  | .sourceName => "source_name"
  | .priority => "priority"
  | .reserved => "reserved"
  | .sequenceNumber => "sequence_number"
  | .options => "options"
  | .dmxUniverse => "universe"
  | .dmpFlagsLength => "dmp_flags_length"
  | .dmpVector => "dmp_vector"
  | .addressTypeAndDataType => "address_type_and_data_type"
  | .firstPropertyAddress => "first_property_address"
  | .addressIncrement => "address_increment"
  | .propertyValueCount => "property_value_count"
  | .propertyValues => "property_values"

/-- The field id of a register name (R95, R21). -/
def fieldIdOfName (s : String) : Option (BitVec 8) :=
  (allFields.find? (fun f => registerName f = s)).map fieldId

/-- One operand of 8 bits that a name may stand for. -/
def namedOperand (names : String → Option (BitVec 8)) : List Token → Except AsmError (BitVec 8)
  | [.num v] => operandOf 8 v
  | [.name s] => match names s with
    | some v => .ok v
    | none => .error .badOperands
  | _ => .error .badOperands

/-- No operand. -/
def noOperand : List Token → Except AsmError Unit
  | [] => .ok ()
  | _ => .error .badOperands

/-- One number of n bits. -/
def oneOperand (n : Nat) : List Token → Except AsmError (BitVec n)
  | [.num v] => operandOf n v
  | _ => .error .badOperands

/-- Two numbers of m and n bits. -/
def twoOperands (m n : Nat) : List Token → Except AsmError (BitVec m × BitVec n)
  | [.num a, .comma, .num b] =>
    match operandOf m a, operandOf n b with
    | .ok x, .ok y => .ok (x, y)
    | .error e, _ => .error e
    | _, .error e => .error e
  | _ => .error .badOperands

-- Lines

/-- The commands of a mnemonic or pseudo-instruction with its operands (R95, R96). -/
def commandLine (m : String) (ts : List Token) : Except AsmError (List Instr) :=
  match m with
  | "FL_ENCODE" => (twoOperands 8 16 ts).map fun p => [.flEncode p.1 p.2]
  | "FL_DECODE" => (oneOperand 16 ts).map fun w => [.flDecode w]
  | "LAYER_INFO" => (namedOperand selectorOfName ts).map fun x => [.layerInfo x]
  | "ROOT_SPLIT" => (noOperand ts).map fun _ => [.rootSplit]
  | "FRAME_SPLIT" => (noOperand ts).map fun _ => [.frameSplit]
  | "SET_SEQUENCE" => (oneOperand 24 ts).map fun v => [.setSequence v]
  | "DMP_GET_START_CODE" => (noOperand ts).map fun _ => [.dmpGetStartCode]
  | "DMP_GET_VALUES" => (noOperand ts).map fun _ => [.dmpGetValues]
  | "READ_FIELD" => (namedOperand fieldIdOfName ts).map fun x => [.readField x]
  | "TO_NETWORK" => (namedOperand selectorOfName ts).map fun x => [.toNetwork x]
  | "TO_HOST" => (namedOperand selectorOfName ts).map fun x => [.toHost x]
  | "CONSTRUCT" => (oneOperand 16 ts).map fun u => [.construct u]
  | "UPDATE" => (twoOperands 8 8 ts).map fun p => [.update p.1 p.2]
  | "SERIALIZE" => (noOperand ts).map fun _ => [.serialize]
  | "SERIALIZE_LAYER" => (namedOperand selectorOfName ts).map fun x => [.serializeLayer x]
  | "DESERIALIZE" => (noOperand ts).map fun _ => [.deserialize]
  | "SEND" => (twoOperands 8 8 ts).map fun p => expand (.send p.1 p.2)
  | "FL_PACK" => (oneOperand 16 ts).map fun l => expand (.flPack l)
  | "GET_SEQ" => (noOperand ts).map fun _ => expand .getSeq
  | "GET_UNIVERSE" => (noOperand ts).map fun _ => expand .getUniverse
  | "GET_CID" => (noOperand ts).map fun _ => expand .getCid
  | "GET_NAME_RAW" => (noOperand ts).map fun _ => expand .getNameRaw
  | _ => .error .unknownMnemonic

/-- Write a byte list to IN from index i on. -/
def writeActions (i : Nat) : List Byte → List HostAction
  | [] => []
  | b :: bs => .writeIn i b :: writeActions (i + 1) bs

/-- `.in`: write IN[0..n) with the list and set in_len = n (R95). -/
def inDirective (bs : List Byte) : Except AsmError (List HostAction) :=
  (operandOf 16 bs.length).map fun n => writeActions 0 bs ++ [.setInLen n]

/-- The host's issue of each command's word. -/
def issueAll (is : List Instr) : List HostAction := is.map fun i => .issue (encode i)

/-- The host actions of a line's tokens. DESIGN CHOICE: a line without tokens, blank or a comment alone, is
a line with no action (log 14). -/
def assembleTokens : List Token → Except AsmError (List HostAction)
  | [] => .ok []
  | .name ".in" :: ts =>
    match byteList (ts.length + 1) ts with
    | .ok bs => inDirective bs
    | .error e => .error e
  | .name ".in_len" :: ts => (oneOperand 16 ts).map fun n => [.setInLen n]
  | .name m :: ts => (commandLine m ts).map issueAll
  | _ => .error .unknownMnemonic

/-- The host actions of one line (R95). -/
def assembleLine (line : List Char) : Except AsmError (List HostAction) :=
  match tokenize line with
  | .ok ts => assembleTokens ts
  | .error e => .error e

/-- The lines of a text. DESIGN CHOICE: a line feed ends a line, and the last line needs none (log 14). -/
def linesOf : List Char → List (List Char)
  | [] => [[]]
  | c :: cs =>
    match linesOf cs with
    | [] => [[c]]
    | l :: ls => if c = '\n' then [] :: l :: ls else (c :: l) :: ls

/-- The host actions of lines, in order. -/
def assembleLines : List (List Char) → Except AsmError (List HostAction)
  | [] => .ok []
  | l :: ls =>
    match assembleLine l, assembleLines ls with
    | .ok a, .ok b => .ok (a ++ b)
    | .error e, _ => .error e
    | _, .error e => .error e

/-- The host actions of a program text (R95). DESIGN CHOICE: an error in any line gives no actions for the
whole text (log 14). -/
def assemble (program : String) : Except AsmError (List HostAction) :=
  assembleLines (linesOf program.toList)

end Sys2Proof.Machine
end

