-- ==== Sys2Proof/Safety.lean ====
section
/-! DEFINITION. The terms that claims use: the canonical form of a buffer, the invariant of the machine,
and the spec's tables restated by number, apart from the definitions the machine runs on, so that a claim
does not lean on the table it is about. -/

namespace Sys2Proof.Machine

/-- The canonical form of a buffer: indices strictly rising. An index that is not listed holds no value,
so no entry can equal what an unlisted index reads as. -/
def Memory.wf (m : Memory) : Bool := decide ((m.map Prod.fst).Pairwise (· < ·))

/-- Every listed index is below n. -/
def Memory.within (n : Nat) (m : Memory) : Bool := m.all (fun c => decide (c.1 < n))

/-- What a list of command words does to the block: each performed whole on the state the word before it
left, first word first (10_state.md R31, 20_memory.md R64). -/
def runWords : List Word → State → Host.Outcome State Fault Refusal
  | [], s => .next s
  | w :: ws, s =>
    match runWord w s with
    | .next t => runWords ws t
    | .fault f => .fault f
    | .refused r => .refused r

/-- The (CODE, CAUSE) pairs a response can carry (60_exceptions.md R200, R202). -/
def legalStatus : List (Nat × Nat) :=
  [(0, 0), (1, 1), (1, 2), (1, 3), (1, 4), (2, 0), (3, 1), (3, 2), (3, 3), (4, 0), (5, 0),
   (6, 1), (6, 2), (6, 3), (6, 4)]

/-- What holds at reset and after every step. -/
structure State.Inv (s : State) : Prop where
  /-- The parameters are ones the spec admits (R8, R121). -/
  cfgOk : s.cfg.wellFormed = true
  /-- OUT is in canonical form. -/
  outWf : s.out.wf = true
  /-- OUT has 638 bytes (R52). -/
  outWithin : s.out.within 638 = true
  /-- IN is in canonical form. -/
  inWf : s.inBuf.wf = true
  /-- IN has IN_CAP bytes (R51). -/
  inWithin : s.inBuf.within s.cfg.inCap = true
  /-- OUT_LEN is between 0 and 638 (R34). -/
  outLenLe : s.outLen.toNat ≤ 638
  /-- Every byte of OUT below OUT_LEN holds a value (R52). -/
  outHeld : ∀ i, i < s.outLen.toNat → (s.out.read i).isSome = true
  /-- STATUS[16] is PKT_VALID (R33). -/
  validCopy : statusValid s.status = s.pktValid
  /-- STATUS[31:17] reads as 0 (R33). -/
  statusRest : statusReserved s.status = 0#15
  /-- CODE and CAUSE are a pair of the tables (R200, R202). -/
  statusLegal : ((statusCode s.status).toNat, (statusCause s.status).toNat) ∈ legalStatus
  /-- ERR_SEEN[7:6] are 0 (R35). -/
  errSeenTop : s.errSeen.extractLsb' 6 2 = 0#2
  /-- After an error the results are 0 and the error's bit is set (R205, R35). -/
  errorOutputs : statusCode s.status ≠ 0#8 →
    s.res0 = 0#32 ∧ s.res1 = 0#32 ∧ s.outLen = 0#16 ∧
      s.errSeen.getLsbD ((statusCode s.status).toNat - 1) = true

/-- The state after a command that raises the error of this CODE and CAUSE, written from R205. -/
def afterError (s : State) (code cause : BitVec 8) : State :=
  { s with
    status := 0#15 ++ BitVec.ofBool s.pktValid ++ cause ++ code
    res0 := 0#32
    res1 := 0#32
    outLen := 0#16
    errSeen := s.errSeen ||| (1#8 <<< (code.toNat - 1)) }

/-- The outputs of a command that succeeds with these results, written from R206: PKT_VALID is read
after the command. -/
def afterOk (s : State) (res0 res1 : BitVec 32) (outLen : Nat) : State :=
  { s with
    status := 0#15 ++ BitVec.ofBool s.pktValid ++ 0#8 ++ 0#8
    res0 := res0
    res1 := res1
    outLen := BitVec.ofNat 16 outLen }

/-- OUT in `t` is `bs` from index 0 on and, at every other index, what it was in `s` (R52). -/
def outIs (s t : State) (bs : List Byte) : Prop :=
  ∀ i, t.out.read i = if i < bs.length then bs[i]? else s.out.read i

/-- The command writes OUT[0..len(bs)) = bs, sets OUT_LEN to len(bs) and RES0 and RES1 as given, and
changes nothing else (R206). -/
def answersBytes (i : Instr) (s : State) (res0 res1 : BitVec 32) (bs : List Byte) : Prop :=
  ∃ t, exec i s = .next t ∧ outIs s t bs ∧
    t = { afterOk s res0 res1 bs.length with out := t.out }

/-- be_N(v), by division (00_scope.md R10). -/
def beBytes (n v : Nat) : List Byte :=
  (List.range n).map (fun k => BitVec.ofNat 8 (v / 256 ^ (n - 1 - k)))

/-- le_N(v), by division (R10). -/
def leBytes (n v : Nat) : List Byte :=
  (List.range n).map (fun k => BitVec.ofNat 8 (v / 256 ^ k))

/-- Field id and value of every field register, by the rows of 10_state.md R21. -/
def fieldTable (p : Packet) : List (BitVec 8 × FieldValue) :=
  [(0x00#8, .s16 p.root.preambleSize), (0x01#8, .s16 p.root.postambleSize),
   (0x02#8, .array p.root.acnPacketIdentifier.toList), (0x03#8, .s16 p.root.rootFlagsLength),
   (0x04#8, .s32 p.root.rootVector), (0x05#8, .array p.root.componentId.toList),
   (0x10#8, .s16 p.frame.frameFlagsLength), (0x11#8, .s32 p.frame.frameVector),
   (0x12#8, .array p.frame.sourceName.toList), (0x13#8, .s8 p.frame.priority),
   (0x14#8, .s16 p.frame.reserved), (0x15#8, .s8 p.frame.sequenceNumber),
   (0x16#8, .s8 p.frame.options), (0x17#8, .s16 p.frame.dmxUniverse),
   (0x20#8, .s16 p.dmp.dmpFlagsLength), (0x21#8, .s8 p.dmp.dmpVector),
   (0x22#8, .s8 p.dmp.addressTypeAndDataType), (0x23#8, .s16 p.dmp.firstPropertyAddress),
   (0x24#8, .s16 p.dmp.addressIncrement), (0x25#8, .s16 p.dmp.propertyValueCount),
   (0x26#8, .array p.dmp.propertyValues.toList)]

/-- Wire offset and wire bytes of every field, by the rows of 20_memory.md R54 and R55. -/
def wireTable (p : Packet) : List (Nat × List Byte) :=
  [(0, beBytes 2 p.root.preambleSize.toNat), (2, beBytes 2 p.root.postambleSize.toNat),
   (4, p.root.acnPacketIdentifier.toList), (16, beBytes 2 p.root.rootFlagsLength.toNat),
   (18, beBytes 4 p.root.rootVector.toNat), (22, p.root.componentId.toList),
   (38, beBytes 2 p.frame.frameFlagsLength.toNat), (40, beBytes 4 p.frame.frameVector.toNat),
   (44, p.frame.sourceName.toList), (108, beBytes 1 p.frame.priority.toNat),
   (109, beBytes 2 p.frame.reserved.toNat), (111, beBytes 1 p.frame.sequenceNumber.toNat),
   (112, beBytes 1 p.frame.options.toNat), (113, beBytes 2 p.frame.dmxUniverse.toNat),
   (115, beBytes 2 p.dmp.dmpFlagsLength.toNat), (117, beBytes 1 p.dmp.dmpVector.toNat),
   (118, beBytes 1 p.dmp.addressTypeAndDataType.toNat),
   (119, beBytes 2 p.dmp.firstPropertyAddress.toNat),
   (121, beBytes 2 p.dmp.addressIncrement.toNat), (123, beBytes 2 p.dmp.propertyValueCount.toNat),
   (125, p.dmp.propertyValues.toList)]

/-- Layer, offset in the layer and host-order bytes of every field, by 42_endianness.md R151. -/
def hostTable (p : Packet) : List (Layer × Nat × List Byte) :=
  [(.root, 0, leBytes 2 p.root.preambleSize.toNat), (.root, 2, leBytes 2 p.root.postambleSize.toNat),
   (.root, 4, p.root.acnPacketIdentifier.toList), (.root, 16, leBytes 2 p.root.rootFlagsLength.toNat),
   (.root, 18, leBytes 4 p.root.rootVector.toNat), (.root, 22, p.root.componentId.toList),
   (.frame, 0, leBytes 2 p.frame.frameFlagsLength.toNat),
   (.frame, 2, leBytes 4 p.frame.frameVector.toNat), (.frame, 6, p.frame.sourceName.toList),
   (.frame, 70, leBytes 1 p.frame.priority.toNat), (.frame, 71, leBytes 2 p.frame.reserved.toNat),
   (.frame, 73, leBytes 1 p.frame.sequenceNumber.toNat),
   (.frame, 74, leBytes 1 p.frame.options.toNat),
   (.frame, 75, leBytes 2 p.frame.dmxUniverse.toNat),
   (.dmp, 0, leBytes 2 p.dmp.dmpFlagsLength.toNat), (.dmp, 2, leBytes 1 p.dmp.dmpVector.toNat),
   (.dmp, 3, leBytes 1 p.dmp.addressTypeAndDataType.toNat),
   (.dmp, 4, leBytes 2 p.dmp.firstPropertyAddress.toNat),
   (.dmp, 6, leBytes 2 p.dmp.addressIncrement.toNat),
   (.dmp, 8, leBytes 2 p.dmp.propertyValueCount.toNat), (.dmp, 10, p.dmp.propertyValues.toList)]

/-- Selector, layer, first byte and size, by the rows of 20_memory.md R62. -/
def layerTable : List (BitVec 8 × Layer × Nat × Nat) :=
  [(0#8, .root, 0, 38), (1#8, .frame, 38, 77), (2#8, .dmp, 115, 523)]

/-- (offset, width) of every span the converter reverses, by the rows of 42_endianness.md R150. -/
def spanTable : Layer → List (Nat × Nat)
  | .root => [(0, 2), (2, 2), (16, 2), (18, 4)]
  | .frame => [(0, 2), (2, 4), (71, 2), (75, 2)]
  | .dmp => [(0, 2), (4, 2), (6, 2), (8, 2)]

/-- Opcodes of the opcode map (30_encoding.md R89) that need PKT_VALID. -/
def needsPacket : List Nat := [0x10, 0x11, 0x12, 0x13, 0x14, 0x15, 0x16, 0x31, 0x32, 0x33]

/-- Opcodes that read IN (R89). -/
def readsIn : List Nat := [0x20, 0x21, 0x30, 0x31, 0x34]

/-- Opcodes whose operand is a layer selector (R87). -/
def takesSelector : List Nat := [0x10, 0x20, 0x21, 0x33]

/-- An opcode of no row of R89, by the ranges of R90. -/
def illegalOpcode (n : Nat) : Bool :=
  n = 0x00 || (0x03 ≤ n && n ≤ 0x0F) || (0x17 ≤ n && n ≤ 0x1F) || (0x22 ≤ n && n ≤ 0x2F) || 0x35 ≤ n

/-- The reserved bits of the format of an opcode, by R81 and R91. -/
def reservedBitsOf (opc : Nat) : BitVec 32 :=
  if opc ∈ [0x11, 0x12, 0x14, 0x15, 0x32, 0x34] then 0x00FFFFFF#32
  else if opc ∈ [0x02, 0x30, 0x31] then 0x00FF0000#32
  else if opc ∈ [0x10, 0x16, 0x20, 0x21, 0x33] then 0x00FFFF00#32
  else 0#32

/-- A defined field id (20_memory.md R53). -/
def definedFieldId (n : Nat) : Bool :=
  n ≤ 0x05 || (0x10 ≤ n && n ≤ 0x17) || (0x20 ≤ n && n ≤ 0x26)

/-- Size of the layer of a selector, 0 for a selector of none (R62). -/
def sizeOfSel (sel : Nat) : Nat := ([38, 77, 523] : List Nat).getD sel 0

/-- Every check of R203 on a command word, in its order, with the CODE and CAUSE it reports. -/
def checksInOrder (word : Word) (s : State) : List (Bool × BitVec 8 × BitVec 8) :=
  let opc := (word.extractLsb' 24 8).toNat
  let op8 := (word.extractLsb' 0 8).toNat
  let op16 := (word.extractLsb' 0 16).toNat
  let flags := (word.extractLsb' 16 8).toNat
  let n := s.inLen.toNat
  [(illegalOpcode opc, 6#8, 1#8),
   (word &&& reservedBitsOf opc ≠ 0#32, 6#8, 2#8),
   (readsIn.contains opc && s.cfg.inCap < n, 6#8, 3#8),
   (takesSelector.contains opc && 3 ≤ op8, 4#8, 0#8),
   (opc = 0x16 && !definedFieldId op8, 6#8, 4#8),
   (needsPacket.contains opc && !s.pktValid, 5#8, 0#8),
   (opc = 0x01 && 0xF < flags && 0xFFF < op16, 1#8, 3#8),
   (opc = 0x01 && 0xF < flags, 1#8, 1#8),
   (opc = 0x01 && 0xFFF < op16, 1#8, 2#8),
   (opc = 0x30 && (op16 < 1 || 63999 < op16), 1#8, 4#8),
   (opc = 0x30 && n < 16, 3#8, 2#8),
   (opc = 0x31 && n ≠ 512, 2#8, 0#8),
   (opc = 0x34 && n < 638, 3#8, 1#8),
   ((opc = 0x20 || opc = 0x21) && n < sizeOfSel op8, 3#8, 3#8)]

/-- The error that R203 reports for a command word, none where no check applies. -/
def firstError (word : Word) (s : State) : Option (BitVec 8 × BitVec 8) :=
  ((checksInOrder word s).find? (·.1)).map (·.2)

end Sys2Proof.Machine
end

