-- ==== Sys2Proof/Certificates/Slice0/Obligations.lean ====
section
/-! DEFINITION. The statements for the provers. Each says what a rule of spec/ says a command or the machine
does, for every state and every operand. -/

open Sys2Proof Sys2Proof.Machine

-- Encoding and decoding

/-- Every command decodes from its word, and a word decodes to no command but the one it encodes (R81 to
R93). -/
def Obligations.DecodeAndEncodeAgree : Prop :=
  (∀ i : Instr, i.wellFormed = true → decode (encode i) = .ok i) ∧
    ∀ (w : Word) (i : Instr), decode w = .ok i → encode i = w

/-- The eight examples of R97: each assembly line is the host's issue of its word, and the word decodes to
the command. -/
def Obligations.ExampleWordsDecode : Prop :=
  (assemble "FL_ENCODE 7, 638" = .ok [.issue 0x0107027E#32] ∧
    decode 0x0107027E#32 = .ok (.flEncode 7#8 638#16)) ∧
  (assemble "FL_DECODE 0x727E" = .ok [.issue 0x0200727E#32] ∧
    decode 0x0200727E#32 = .ok (.flDecode 0x727E#16)) ∧
  (assemble "CONSTRUCT 5" = .ok [.issue 0x30000005#32] ∧
    decode 0x30000005#32 = .ok (.construct 5#16)) ∧
  (assemble "UPDATE 0, 1" = .ok [.issue 0x31000001#32] ∧
    decode 0x31000001#32 = .ok (.update 0#8 1#8)) ∧
  (assemble "SET_SEQUENCE 0x1FF" = .ok [.issue 0x130001FF#32] ∧
    decode 0x130001FF#32 = .ok (.setSequence 0x1FF#24)) ∧
  (assemble "LAYER_INFO FRAME" = .ok [.issue 0x10000001#32] ∧
    decode 0x10000001#32 = .ok (.layerInfo 1#8)) ∧
  (assemble "READ_FIELD universe" = .ok [.issue 0x16000017#32] ∧
    decode 0x16000017#32 = .ok (.readField 0x17#8)) ∧
  (assemble "SERIALIZE" = .ok [.issue 0x32000000#32] ∧
    decode 0x32000000#32 = .ok .serialize)

/-- A word of an opcode outside the map raises ILLEGAL_COMMAND(1), and no word of a mapped opcode does
(R90). -/
def Obligations.IllegalOpcodeRaises : Prop :=
  ∀ (w : Word) (s : State) (rest : List HostAction), s.hostScript = .issue w :: rest →
    (illegalOpcode (w.extractLsb' 24 8).toNat = true →
      step s = .next (afterError { s with hostScript := rest } 6#8 1#8)) ∧
    (illegalOpcode (w.extractLsb' 24 8).toNat = false → decode w ≠ .error .illegalOpcode)

/-- A word of a mapped opcode with a 1 in a reserved bit raises ILLEGAL_COMMAND(2); with none it is a
command (R91). -/
def Obligations.ReservedBitRaises : Prop :=
  ∀ (w : Word) (s : State) (rest : List HostAction), s.hostScript = .issue w :: rest →
    illegalOpcode (w.extractLsb' 24 8).toNat = false →
      (w &&& reservedBitsOf (w.extractLsb' 24 8).toNat ≠ 0#32 →
        step s = .next (afterError { s with hostScript := rest } 6#8 2#8)) ∧
      (w &&& reservedBitsOf (w.extractLsb' 24 8).toNat = 0#32 → ∃ i, decode w = .ok i)

/-- A step at an issued word that decodes to a command is that command, on the state with the word taken
from the host's script. -/
def Obligations.StepRunsDecodedCommand : Prop :=
  ∀ (w : Word) (i : Instr) (s : State) (rest : List HostAction), s.hostScript = .issue w :: rest →
    decode w = .ok i → i.wellFormed = true → step s = exec i { s with hostScript := rest }

/-- The host issuing a command's word makes the next step that command. The host's script is the model's own
form of the host (log 6). -/
def Obligations.IssuedCommandRunsNext : Prop :=
  ∀ (i : Instr) (s : State), step (s.withFetchWord 32 (encode i).toNat) = exec i s

-- FlagsLength bit-packer

/-- FL_ENCODE packs a flags value up to 15 and a length up to 4095, and otherwise raises OUT_OF_RANGE with
one cause bit per operand out of range (R110). -/
def Obligations.FlEncodePacksOrRaises : Prop :=
  ∀ (f : BitVec 8) (l : BitVec 16) (s : State),
    decode (0x01#8 ++ f ++ l) = .ok (.flEncode f l) ∧
    (f.toNat ≤ 15 → l.toNat ≤ 4095 →
      exec (.flEncode f l) s = .next (afterOk s (BitVec.ofNat 32 (f.toNat * 4096 + l.toNat)) 0#32 0)) ∧
    (15 < f.toNat → l.toNat ≤ 4095 → exec (.flEncode f l) s = .next (afterError s 1#8 0x01#8)) ∧
    (f.toNat ≤ 15 → 4095 < l.toNat → exec (.flEncode f l) s = .next (afterError s 1#8 0x02#8)) ∧
    (15 < f.toNat → 4095 < l.toNat → exec (.flEncode f l) s = .next (afterError s 1#8 0x03#8))

/-- FL_DECODE gives the flags in RES0 and the length in RES1, for every word (R111). -/
def Obligations.FlDecodeUnpacks : Prop :=
  ∀ (w : BitVec 16) (s : State),
    decode (0x02#8 ++ 0x00#8 ++ w) = .ok (.flDecode w) ∧
    exec (.flDecode w) s =
      .next (afterOk s (BitVec.ofNat 32 (w.toNat / 4096)) (BitVec.ofNat 32 (w.toNat % 4096)) 0)

/-- FL_DECODE of the word FL_ENCODE made gives the operands back (R112). -/
def Obligations.FlagsLengthRoundTrip : Prop :=
  ∀ (f : BitVec 8) (l : BitVec 16) (s : State), f.toNat ≤ 15 → l.toNat ≤ 4095 →
    ∃ t u, exec (.flEncode f l) s = .next t ∧ statusCode t.status = 0#8 ∧ t.res0.toNat < 65536 ∧
      exec (.flDecode (t.res0.setWidth 16)) t = .next u ∧
      u.res0.toNat = f.toNat ∧ u.res1.toNat = l.toNat

/-- FL_ENCODE of the parts FL_DECODE gave succeeds and gives the word back, for every word (R113). -/
def Obligations.FlagsLengthConverse : Prop :=
  ∀ (w : BitVec 16) (s : State), ∃ t u, exec (.flDecode w) s = .next t ∧
    t.res0.toNat ≤ 15 ∧ t.res1.toNat ≤ 4095 ∧
    exec (.flEncode (t.res0.setWidth 8) (t.res1.setWidth 16)) t = .next u ∧
    statusCode u.status = 0#8 ∧ u.res0.toNat = w.toNat

-- Layer accessors

/-- LAYER_INFO gives the length and the flags of the selected layer's FlagsLength register; a selector of
none and a missing packet are refused in that order (R122). -/
def Obligations.LayerInfoReportsLengthAndFlags : Prop :=
  ∀ (sel : BitVec 8) (s : State),
    decode (0x10#8 ++ 0x0000#16 ++ sel) = .ok (.layerInfo sel) ∧
    (3 ≤ sel.toNat → exec (.layerInfo sel) s = .next (afterError s 4#8 0#8)) ∧
    (sel.toNat < 3 → s.pktValid = false → exec (.layerInfo sel) s = .next (afterError s 5#8 0#8)) ∧
    ∀ fl : BitVec 16, s.pktValid = true →
      (sel.toNat = 0 ∧ fl = s.pkt.root.rootFlagsLength ∨
        sel.toNat = 1 ∧ fl = s.pkt.frame.frameFlagsLength ∨
        sel.toNat = 2 ∧ fl = s.pkt.dmp.dmpFlagsLength) →
      exec (.layerInfo sel) s =
        .next (afterOk s (BitVec.ofNat 32 (fl.toNat % 4096)) (BitVec.ofNat 32 (fl.toNat / 4096)) 0)

/-- ROOT_SPLIT writes the component id and then the display identifier, and reports the identifier's
length (R123). -/
def Obligations.RootSplitGivesCidAndIdentifier : Prop :=
  ∀ s : State,
    decode 0x11000000#32 = .ok .rootSplit ∧
    (s.pktValid = false → exec .rootSplit s = .next (afterError s 5#8 0#8)) ∧
    ∀ d, d = display s.cfg.trimSet s.pkt.root.acnPacketIdentifier.toList → s.pktValid = true →
      answersBytes .rootSplit s (BitVec.ofNat 32 d.length) 0#32 (s.pkt.root.componentId.toList ++ d)

/-- FRAME_SPLIT writes the display name and reports priority, sequence number, universe and the decoded
options (R124). -/
def Obligations.FrameSplitReportsFields : Prop :=
  ∀ s : State,
    decode 0x12000000#32 = .ok .frameSplit ∧
    (s.pktValid = false → exec .frameSplit s = .next (afterError s 5#8 0#8)) ∧
    (s.pktValid = true → ∃ r0 r1 : BitVec 32,
      answersBytes .frameSplit s r0 r1 (display s.cfg.trimSet s.pkt.frame.sourceName.toList) ∧
      r0.extractLsb' 24 8 = s.pkt.frame.priority ∧ r0.extractLsb' 16 8 = s.pkt.frame.sequenceNumber ∧
      r0.extractLsb' 0 16 = s.pkt.frame.dmxUniverse ∧
      r1.extractLsb' 0 8 = s.pkt.frame.options ∧ r1.getLsbD 8 = s.pkt.frame.options.getLsbD 6 ∧
      r1.getLsbD 9 = s.pkt.frame.options.getLsbD 7 ∧ r1.extractLsb' 10 22 = 0#22)

/-- Display turns every NUL into a space and then removes exactly the leading and trailing bytes of the
trim set: what is left has none of them at either end (R120). -/
def Obligations.DisplayConvertsThenTrims : Prop :=
  ∀ (ts l : List Byte), ∃ front back : List Byte,
    l.map (fun b => if b = 0x00#8 then 0x20#8 else b) = front ++ display ts l ++ back ∧
    (∀ b ∈ front, b ∈ ts) ∧ (∀ b ∈ back, b ∈ ts) ∧
    (∀ b, (display ts l).head? = some b → b ∉ ts) ∧
    (∀ b, (display ts l).getLast? = some b → b ∉ ts)

/-- With parameters that the spec admits, a list of NULs displays as nothing (R121). -/
def Obligations.AllNulDisplaysEmpty : Prop :=
  ∀ (c : Config) (n : Nat), c.wellFormed = true → display c.trimSet (List.replicate n 0x00#8) = []

/-- SET_SEQUENCE stores its operand modulo 256 and nothing else of the packet (R126). -/
def Obligations.SetSequenceStoresModulo : Prop :=
  ∀ (v : BitVec 24) (s : State),
    decode (0x13#8 ++ v) = .ok (.setSequence v) ∧
    (s.pktValid = false → exec (.setSequence v) s = .next (afterError s 5#8 0#8)) ∧
    (s.pktValid = true →
      exec (.setSequence v) s = .next (afterOk
        { s with pkt := { s.pkt with frame :=
            { s.pkt.frame with sequenceNumber := BitVec.ofNat 8 (v.toNat % 256) } } }
        (BitVec.ofNat 32 (v.toNat % 256)) 0#32 0))

/-- DMP_GET_START_CODE gives the byte at index 0 of the value block (R127). -/
def Obligations.StartCodeIsIndexZero : Prop :=
  ∀ (s : State) (sc : Byte),
    decode 0x14000000#32 = .ok .dmpGetStartCode ∧
    (s.pktValid = false → exec .dmpGetStartCode s = .next (afterError s 5#8 0#8)) ∧
    (s.pktValid = true → s.pkt.dmp.propertyValues.toList[0]? = some sc →
      exec .dmpGetStartCode s = .next (afterOk s (sc.setWidth 32) 0#32 0))

/-- DMP_GET_VALUES writes the 512 slots, which stand at indices 1 to 512 of the value block (R128). -/
def Obligations.GetValuesGivesAllSlots : Prop :=
  ∀ s : State,
    decode 0x15000000#32 = .ok .dmpGetValues ∧
    (s.pktValid = false → exec .dmpGetValues s = .next (afterError s 5#8 0#8)) ∧
    (s.pktValid = true → ∃ vals : List Byte, vals.length = 512 ∧
      (∀ k, k < 512 → vals[k]? = s.pkt.dmp.propertyValues.toList[k + 1]?) ∧
      answersBytes .dmpGetValues s 512#32 0#32 vals)

/-- READ_FIELD gives the register of every field id of R21, a scalar in RES0 and an array in OUT; every
other id is refused before the packet is looked for (R131). -/
def Obligations.ReadFieldReturnsRegister : Prop :=
  ∀ (fid : BitVec 8) (s : State),
    decode (0x16#8 ++ 0x0000#16 ++ fid) = .ok (.readField fid) ∧
    (definedFieldId fid.toNat = false → exec (.readField fid) s = .next (afterError s 6#8 4#8)) ∧
    (definedFieldId fid.toNat = true → s.pktValid = false →
      exec (.readField fid) s = .next (afterError s 5#8 0#8)) ∧
    (s.pktValid = true →
      (∀ v, (fid, FieldValue.s8 v) ∈ fieldTable s.pkt →
        exec (.readField fid) s = .next (afterOk s (v.setWidth 32) 0#32 0)) ∧
      (∀ v, (fid, FieldValue.s16 v) ∈ fieldTable s.pkt →
        exec (.readField fid) s = .next (afterOk s (v.setWidth 32) 0#32 0)) ∧
      (∀ v, (fid, FieldValue.s32 v) ∈ fieldTable s.pkt →
        exec (.readField fid) s = .next (afterOk s v 0#32 0)) ∧
      (∀ bs, (fid, FieldValue.array bs) ∈ fieldTable s.pkt →
        answersBytes (.readField fid) s (BitVec.ofNat 32 bs.length) 0#32 bs))

-- Endianness converter

/-- TO_NETWORK checks in_len, the selector and the layer's size in that order, then writes SwapImg of the
image in IN and needs no packet (R153). -/
def Obligations.ToNetworkConvertsLayer : Prop :=
  ∀ (sel : BitVec 8) (s : State),
    decode (0x20#8 ++ 0x0000#16 ++ sel) = .ok (.toNetwork sel) ∧
    (s.cfg.inCap < s.inLen.toNat → exec (.toNetwork sel) s = .next (afterError s 6#8 3#8)) ∧
    (s.inLen.toNat ≤ s.cfg.inCap → 3 ≤ sel.toNat →
      exec (.toNetwork sel) s = .next (afterError s 4#8 0#8)) ∧
    ∀ l base size, (sel, l, base, size) ∈ layerTable → s.inLen.toNat ≤ s.cfg.inCap →
      (s.inLen.toNat < size → exec (.toNetwork sel) s = .next (afterError s 3#8 3#8)) ∧
      (size ≤ s.inLen.toNat →
        answersBytes (.toNetwork sel) s (BitVec.ofNat 32 size) 0#32
          (swapImg l ((List.range size).map s.inAt)))

/-- TO_HOST makes the same checks and the same permutation as TO_NETWORK (R154). -/
def Obligations.ToHostConvertsLayer : Prop :=
  ∀ (sel : BitVec 8) (s : State),
    decode (0x21#8 ++ 0x0000#16 ++ sel) = .ok (.toHost sel) ∧
    (s.cfg.inCap < s.inLen.toNat → exec (.toHost sel) s = .next (afterError s 6#8 3#8)) ∧
    (s.inLen.toNat ≤ s.cfg.inCap → 3 ≤ sel.toNat →
      exec (.toHost sel) s = .next (afterError s 4#8 0#8)) ∧
    ∀ l base size, (sel, l, base, size) ∈ layerTable → s.inLen.toNat ≤ s.cfg.inCap →
      (s.inLen.toNat < size → exec (.toHost sel) s = .next (afterError s 3#8 3#8)) ∧
      (size ≤ s.inLen.toNat →
        answersBytes (.toHost sel) s (BitVec.ofNat 32 size) 0#32
          (swapImg l ((List.range size).map s.inAt)))

/-- SwapImg puts each span's bytes in reverse order and copies every byte outside the spans (R150). -/
def Obligations.SwapImgReversesSpans : Prop :=
  ∀ (l : Layer) (img : List Byte), img.length = layerSize l →
    (swapImg l img).length = img.length ∧
    (∀ a w j, (a, w) ∈ spanTable l → j < w → (swapImg l img)[a + j]? = img[a + w - 1 - j]?) ∧
    (∀ i, (∀ a w, (a, w) ∈ spanTable l → i < a ∨ a + w ≤ i) → (swapImg l img)[i]? = img[i]?)

/-- HostImage holds each field of the layer at its offset, scalars little-endian and arrays as they are
(R151). -/
def Obligations.HostImageLaysOutFields : Prop :=
  ∀ (p : Packet) (l : Layer), (hostImage l p).length = layerSize l ∧
    ∀ off bs, (l, off, bs) ∈ hostTable p → slice (hostImage l p) off bs.length = bs

/-- SwapImg of the host image of a layer is the layer's part of the wire image, for every packet
(R152). -/
def Obligations.SwappedHostImageIsWireImage : Prop :=
  ∀ (p : Packet) (sel : BitVec 8) (l : Layer) (base size : Nat), (sel, l, base, size) ∈ layerTable →
    swapImg l (hostImage l p) = ((wireImage p).drop base).take size

/-- SwapImg undoes itself on every layer image, and TO_HOST of what TO_NETWORK wrote gives the first image
back (R155). -/
def Obligations.ConversionsAreMutualInverses : Prop :=
  (∀ (l : Layer) (img : List Byte), img.length = layerSize l → swapImg l (swapImg l img) = img) ∧
  ∀ (sel : BitVec 8) (l : Layer) (base size : Nat) (s v t : State), (sel, l, base, size) ∈ layerTable →
    s.inLen.toNat ≤ s.cfg.inCap → size ≤ s.inLen.toNat →
    v.inLen.toNat ≤ v.cfg.inCap → size ≤ v.inLen.toNat →
    exec (.toNetwork sel) s = .next t → (∀ k, k < size → t.out.read k = some (v.inAt k)) →
    ∃ u, exec (.toHost sel) v = .next u ∧ u.outLen.toNat = size ∧
      ∀ k, k < size → u.out.read k = some (s.inAt k)

-- Packet operations

/-- The wire image is 638 bytes with each field at its offset, scalars big-endian and arrays as they are
(R54, R55, R172). -/
def Obligations.WireImageLaysOutFields : Prop :=
  ∀ p : Packet, (wireImage p).length = 638 ∧
    (wireTable p).flatMap Prod.snd = wireImage p ∧
    ∀ off bs, (off, bs) ∈ wireTable p → slice (wireImage p) off bs.length = bs

/-- CONSTRUCT checks in_len, the universe and the length in that order; then it writes every field and
PKT_VALID, with the component id and the name taken from IN (R175). -/
def Obligations.ConstructBuildsPacket : Prop :=
  ∀ (u : BitVec 16) (s : State),
    decode (0x30#8 ++ 0x00#8 ++ u) = .ok (.construct u) ∧
    (s.cfg.inCap < s.inLen.toNat → exec (.construct u) s = .next (afterError s 6#8 3#8)) ∧
    (s.inLen.toNat ≤ s.cfg.inCap → u.toNat < 1 ∨ 63999 < u.toNat →
      exec (.construct u) s = .next (afterError s 1#8 0x04#8)) ∧
    (s.inLen.toNat ≤ s.cfg.inCap → 1 ≤ u.toNat → u.toNat ≤ 63999 → s.inLen.toNat < 16 →
      exec (.construct u) s = .next (afterError s 3#8 2#8)) ∧
    (s.inLen.toNat ≤ s.cfg.inCap → 1 ≤ u.toNat → u.toNat ≤ 63999 → 16 ≤ s.inLen.toNat →
      ∃ p : Packet,
        exec (.construct u) s =
          .next (afterOk { s with pkt := p, pktValid := true } 0#32 0#32 0) ∧
        p.root.preambleSize = 0x0010#16 ∧ p.root.postambleSize = 0x0000#16 ∧
        p.root.acnPacketIdentifier.toList =
          [0x41#8, 0x53#8, 0x43#8, 0x2D#8, 0x45#8, 0x31#8, 0x2E#8, 0x31#8, 0x37#8, 0x00#8, 0x00#8,
            0x00#8] ∧
        p.root.rootFlagsLength = 0x727E#16 ∧ p.root.rootVector = 0x00000004#32 ∧
        p.root.componentId.toList = (List.range 16).map s.inAt ∧
        p.frame.frameFlagsLength = 0x7258#16 ∧ p.frame.frameVector = 0x00000002#32 ∧
        (∀ k, k < 64 → p.frame.sourceName.toList[k]? =
          some (if 16 + k < s.inLen.toNat then s.inAt (16 + k) else 0x00#8)) ∧
        p.frame.priority = 100#8 ∧ p.frame.reserved = 0x0000#16 ∧ p.frame.sequenceNumber = 1#8 ∧
        p.frame.options = 0#8 ∧ p.frame.dmxUniverse = u ∧
        p.dmp.dmpFlagsLength = 0x720B#16 ∧ p.dmp.dmpVector = 0x02#8 ∧
        p.dmp.addressTypeAndDataType = 0xA1#8 ∧ p.dmp.firstPropertyAddress = 0x0000#16 ∧
        p.dmp.addressIncrement = 0x0001#16 ∧ p.dmp.propertyValueCount = 513#16 ∧
        p.dmp.propertyValues.toList = List.replicate 513 0x00#8)

/-- UPDATE checks in_len, the packet and the value count in that order; then it replaces the value block
and the sequence number and no other field (R178). -/
def Obligations.UpdateReplacesValues : Prop :=
  ∀ (sc seq : BitVec 8) (s : State),
    decode (0x31#8 ++ 0x00#8 ++ sc ++ seq) = .ok (.update sc seq) ∧
    (s.cfg.inCap < s.inLen.toNat → exec (.update sc seq) s = .next (afterError s 6#8 3#8)) ∧
    (s.inLen.toNat ≤ s.cfg.inCap → s.pktValid = false →
      exec (.update sc seq) s = .next (afterError s 5#8 0#8)) ∧
    (s.inLen.toNat ≤ s.cfg.inCap → s.pktValid = true → s.inLen.toNat ≠ 512 →
      exec (.update sc seq) s = .next (afterError s 2#8 0#8)) ∧
    (s.inLen.toNat ≤ s.cfg.inCap → s.pktValid = true → s.inLen.toNat = 512 →
      ∃ pv : Vector Byte 513, pv.toList = sc :: (List.range 512).map s.inAt ∧
        exec (.update sc seq) s = .next (afterOk
          { s with pkt := { s.pkt with
              frame := { s.pkt.frame with sequenceNumber := seq }
              dmp := { s.pkt.dmp with propertyValues := pv } } } 0#32 0#32 0))

/-- SERIALIZE writes the 638-byte wire image and does not modify the packet (R182). -/
def Obligations.SerializeEmitsWireImage : Prop :=
  ∀ s : State,
    decode 0x32000000#32 = .ok .serialize ∧
    (s.pktValid = false → exec .serialize s = .next (afterError s 5#8 0#8)) ∧
    (s.pktValid = true → (wireImage s.pkt).length = 638 ∧
      answersBytes .serialize s 638#32 0#32 (wireImage s.pkt))

/-- SERIALIZE_LAYER writes the wire bytes of the selected layer; a selector of none and a missing packet
are refused in that order (R185). -/
def Obligations.SerializeLayerEmitsRegion : Prop :=
  ∀ (sel : BitVec 8) (s : State),
    decode (0x33#8 ++ 0x0000#16 ++ sel) = .ok (.serializeLayer sel) ∧
    (3 ≤ sel.toNat → exec (.serializeLayer sel) s = .next (afterError s 4#8 0#8)) ∧
    (sel.toNat < 3 → s.pktValid = false →
      exec (.serializeLayer sel) s = .next (afterError s 5#8 0#8)) ∧
    ∀ l base size, (sel, l, base, size) ∈ layerTable → s.pktValid = true →
      (((wireImage s.pkt).drop base).take size).length = size ∧
      answersBytes (.serializeLayer sel) s (BitVec.ofNat 32 size) 0#32
        (((wireImage s.pkt).drop base).take size)

/-- SERIALIZE gives 638 bytes, and the outputs of SERIALIZE_LAYER 0, 1 and 2, which have 38, 77 and 523
bytes, put end to end are its output (R198). -/
def Obligations.LayersTileSerializedPacket : Prop :=
  ∀ s : State, s.pktValid = true → ∃ t a b c, exec .serialize s = .next t ∧
    exec (.serializeLayer 0#8) s = .next a ∧ exec (.serializeLayer 1#8) s = .next b ∧
    exec (.serializeLayer 2#8) s = .next c ∧
    t.outLen.toNat = 638 ∧ a.outLen.toNat = 38 ∧ b.outLen.toNat = 77 ∧ c.outLen.toNat = 523 ∧
    (∀ k, k < 38 → t.out.read k = a.out.read k) ∧
    (∀ k, k < 77 → t.out.read (38 + k) = b.out.read k) ∧
    (∀ k, k < 523 → t.out.read (115 + k) = c.out.read k)

/-- DESERIALIZE checks in_len and the length in that order; then every field holds the number or bytes at
its offset of IN[0..638), whatever they are, and PKT_VALID is 1. The source's route gives the same registers:
each layer's host image is SwapImg of the layer's slice of the input (R190, R193). -/
def Obligations.DeserializeLoadsEveryField : Prop :=
  ∀ s : State,
    decode 0x34000000#32 = .ok .deserialize ∧
    (s.cfg.inCap < s.inLen.toNat → exec .deserialize s = .next (afterError s 6#8 3#8)) ∧
    (s.inLen.toNat ≤ s.cfg.inCap → s.inLen.toNat < 638 →
      exec .deserialize s = .next (afterError s 3#8 1#8)) ∧
    (s.inLen.toNat ≤ s.cfg.inCap → 638 ≤ s.inLen.toNat →
      ∃ p : Packet,
        exec .deserialize s =
          .next (afterOk { s with pkt := p, pktValid := true } 638#32 0#32 0) ∧
        (∀ off bs, (off, bs) ∈ wireTable p →
          ∀ k, k < bs.length → bs[k]? = some (s.inAt (off + k))) ∧
        ∀ sel l base size, (sel, l, base, size) ∈ layerTable →
          hostImage l p = swapImg l ((List.range size).map (fun k => s.inAt (base + k))))

/-- DESERIALIZE of what SERIALIZE wrote leaves every field register as it was, for every packet (R195). -/
def Obligations.SerializeThenDeserializeKeepsPacket : Prop :=
  ∀ s v t : State, s.pktValid = true → exec .serialize s = .next t →
    v.inLen.toNat = 638 → 638 ≤ v.cfg.inCap → (∀ k, k < 638 → t.out.read k = some (v.inAt k)) →
    ∃ u, exec .deserialize v = .next u ∧ u.pkt = s.pkt ∧ u.pktValid = true

/-- SERIALIZE after DESERIALIZE of any 638 bytes writes those bytes (R196). -/
def Obligations.DeserializeThenSerializeKeepsBytes : Prop :=
  ∀ s : State, s.inLen.toNat ≤ s.cfg.inCap → 638 ≤ s.inLen.toNat →
    ∃ t u, exec .deserialize s = .next t ∧ exec .serialize t = .next u ∧ u.outLen.toNat = 638 ∧
      ∀ k, k < 638 → u.out.read k = some (s.inAt k)

/-- Two UPDATEs of one packet serialize to images that differ only at offset 111 and at the offsets of the
value block where the two value lists differ (R197). -/
def Obligations.SuccessiveUpdatesDifferOnlyInValues : Prop :=
  ∀ (sc sc' seq seq' : BitVec 8) (s v t t' u u' : State),
    exec (.update sc seq) s = .next t → exec .serialize t = .next u →
    exec (.update sc' seq') v = .next t' → exec .serialize t' = .next u' →
    s.pktValid = true → v.pktValid = true → s.inLen.toNat = 512 → v.inLen.toNat = 512 →
    512 ≤ s.cfg.inCap → 512 ≤ v.cfg.inCap → v.pkt = t.pkt →
    ∀ k, k < 638 → k ≠ 111 →
      (125 ≤ k → (sc :: (List.range 512).map s.inAt)[k - 125]? =
        (sc' :: (List.range 512).map v.inAt)[k - 125]?) →
      u.out.read k = u'.out.read k

/-- The lengths CONSTRUCT writes nest: LAYER_INFO then reports 638, 600 and 523 with flags 7, and each is
the layer's own bytes and everything nested below it (R171). -/
def Obligations.ConstructedLengthsNest : Prop :=
  ∀ (u : BitVec 16) (s : State), s.inLen.toNat ≤ s.cfg.inCap → 1 ≤ u.toNat → u.toNat ≤ 63999 →
    16 ≤ s.inLen.toNat → ∃ t a b c, exec (.construct u) s = .next t ∧
      exec (.layerInfo 0#8) t = .next a ∧ exec (.layerInfo 1#8) t = .next b ∧
      exec (.layerInfo 2#8) t = .next c ∧
      c.res0.toNat = 10 + 513 ∧ b.res0.toNat = 77 + c.res0.toNat ∧ a.res0.toNat = 38 + b.res0.toNat ∧
      a.res1.toNat = 7 ∧ b.res1.toNat = 7 ∧ c.res1.toNat = 7

/-- After UPDATE, DMP_GET_START_CODE gives its start code and DMP_GET_VALUES the 512 bytes of IN. -/
def Obligations.UpdateThenGetValues : Prop :=
  ∀ (sc seq : BitVec 8) (s : State), s.inLen.toNat = 512 → 512 ≤ s.cfg.inCap → s.pktValid = true →
    ∃ t a b, exec (.update sc seq) s = .next t ∧ exec .dmpGetStartCode t = .next a ∧
      exec .dmpGetValues t = .next b ∧ a.res0 = sc.setWidth 32 ∧ b.outLen.toNat = 512 ∧
      ∀ k, k < 512 → b.out.read k = some (s.inAt k)

-- Errors, status and state

/-- A command word reports the first error of R203's list that applies, and takes that error's step; where
none applies it succeeds (R203). -/
def Obligations.FirstErrorIsReported : Prop :=
  ∀ (w : Word) (s : State),
    (∀ code cause, firstError w s = some (code, cause) → runWord w s = .next (afterError s code cause)) ∧
    (firstError w s = none → ∃ t, runWord w s = .next t ∧ statusCode t.status = 0#8)

/-- A command word that ends with a CODE other than 0 has changed STATUS, RES0, RES1, OUT_LEN and ERR_SEEN
as R205 says, and nothing else; the next word is accepted. -/
def Obligations.ErrorsArePrecise : Prop :=
  ∀ (w : Word) (s t : State), runWord w s = .next t → statusCode t.status ≠ 0#8 →
    (∃ code cause, t = afterError s code cause ∧ 1 ≤ code.toNat ∧ code.toNat ≤ 6) ∧
    ∀ w' : Word, ∃ u, runWord w' t = .next u

/-- A command that ends with CODE 0 leaves ERR_SEEN, shows PKT_VALID as it is after the command, and keeps
every byte of OUT from OUT_LEN on (R206, R52). -/
def Obligations.SuccessKeepsErrorsAndRest : Prop :=
  ∀ (i : Instr) (s t : State), exec i s = .next t → statusCode t.status = 0#8 →
    t.status = 0#15 ++ BitVec.ofBool t.pktValid ++ 0#8 ++ 0#8 ∧ t.errSeen = s.errSeen ∧
    ∀ k, t.outLen.toNat ≤ k → t.out.read k = s.out.read k

/-- The ten commands that need a packet raise NO_PACKET while PKT_VALID = 0, where no earlier check applies
(R201). -/
def Obligations.NoPacketIsRaised : Prop :=
  ∀ (i : Instr) (s : State), s.pktValid = false →
    ((∃ sel : BitVec 8, sel.toNat < 3 ∧ (i = .layerInfo sel ∨ i = .serializeLayer sel)) ∨
      (∃ fid : BitVec 8, definedFieldId fid.toNat = true ∧ i = .readField fid) ∨
      (∃ v, i = .setSequence v) ∨
      (∃ sc seq, s.inLen.toNat ≤ s.cfg.inCap ∧ i = .update sc seq) ∨
      i = .rootSplit ∨ i = .frameSplit ∨ i = .dmpGetStartCode ∨ i = .dmpGetValues ∨ i = .serialize) →
    exec i s = .next (afterError s 5#8 0#8)

/-- Which commands write which packet field registers: a command that raises writes none (R27). -/
def Obligations.FieldsAreWrittenByTheirCommands : Prop :=
  ∀ (i : Instr) (s t : State), exec i s = .next t →
    (statusCode t.status ≠ 0#8 → t.pkt = s.pkt) ∧
    (∀ sc seq, i = .update sc seq → t.pkt.root = s.pkt.root ∧
      t.pkt.frame = { s.pkt.frame with sequenceNumber := t.pkt.frame.sequenceNumber } ∧
      t.pkt.dmp = { s.pkt.dmp with propertyValues := t.pkt.dmp.propertyValues }) ∧
    (∀ v, i = .setSequence v → t.pkt.root = s.pkt.root ∧ t.pkt.dmp = s.pkt.dmp ∧
      t.pkt.frame = { s.pkt.frame with sequenceNumber := t.pkt.frame.sequenceNumber }) ∧
    (i ≠ .deserialize → (∀ u, i ≠ .construct u) → (∀ sc seq, i ≠ .update sc seq) →
      (∀ v, i ≠ .setSequence v) → t.pkt = s.pkt)

/-- PKT_VALID is set by a successful CONSTRUCT or DESERIALIZE, cleared by no command and no other host action
but reset, left alone by every action that is neither, and 0 after reset (R29). -/
def Obligations.PacketStaysValidUntilReset : Prop :=
  (∀ (w : Word) (s t : State), runWord w s = .next t →
    (s.pktValid = true → t.pktValid = true) ∧
    (s.pktValid = false → (t.pktValid = true ↔ statusCode t.status = 0#8 ∧
      ((∃ u, decode w = .ok (.construct u)) ∨ decode w = .ok .deserialize))) ∧
    statusValid t.status = t.pktValid) ∧
  (∀ (a : HostAction) (s t : State), a ≠ .reset → perform a s = .next t →
    (s.pktValid = true → t.pktValid = true) ∧ ((∀ w, a ≠ .issue w) → t.pktValid = s.pktValid)) ∧
  (∀ s : State, ∃ t, perform .reset s = .next t ∧ t.pktValid = false) ∧ State.reset.pktValid = false

/-- A command that ends with CODE k from 1 to 6 sets bit k-1 of ERR_SEEN and changes no other bit; with
CODE 0 it changes none; only reset clears them (R35). -/
def Obligations.ErrorRecordIsSticky : Prop :=
  (∀ (w : Word) (s t : State), runWord w s = .next t →
    (statusCode t.status = 0#8 → t.errSeen = s.errSeen) ∧
    (statusCode t.status ≠ 0#8 → (statusCode t.status).toNat ≤ 6 ∧
      ∀ j, j < 8 → t.errSeen.getLsbD j =
        (s.errSeen.getLsbD j || decide (j + 1 = (statusCode t.status).toNat)))) ∧
  (∀ (a : HostAction) (s t : State), a ≠ .reset → perform a s = .next t →
    s.errSeen &&& t.errSeen = s.errSeen) ∧
  (∀ s : State, ∃ t, perform .reset s = .next t ∧ t.errSeen = 0#8) ∧ State.reset.errSeen = 0#8

/-- No command reads STATUS, ERR_SEEN, RES0, RES1 or OUT_LEN: with other values of these before it, a command
gives the same state after it, and sets the same bits of ERR_SEEN (R36). -/
def Obligations.CommandsDoNotReadStatus : Prop :=
  ∀ (w : Word) (s t : State) (st r0 r1 : BitVec 32) (n : BitVec 16) (e : BitVec 8),
    runWord w s = .next t → ∃ set : BitVec 8, t.errSeen = s.errSeen ||| set ∧
      runWord w { s with status := st, res0 := r0, res1 := r1, outLen := n, errSeen := e } =
        .next { t with errSeen := e ||| set }

/-- While PKT_VALID = 0 no command shows what the packet registers hold: two states that differ only there
answer alike, and differ only there until CONSTRUCT or DESERIALIZE writes every register (R231). So the values
that log 1 chooses for them are never shown. -/
def Obligations.UnspecifiedRegistersAreNeverObserved : Prop :=
  ∀ (w : Word) (s : State) (p : Packet), s.pktValid = false →
    ∃ t t', runWord w s = .next t ∧ runWord w { s with pkt := p } = .next t' ∧
      t' = { t with pkt := t'.pkt } ∧ (t.pktValid = true → t'.pkt = t.pkt)

/-- Bytes of IN at or past in_len are never read, and no command writes IN (R51). -/
def Obligations.InBytesPastLengthAreNeverRead : Prop :=
  ∀ (w : Word) (s : State) (m : Memory),
    (∀ k, k < s.inLen.toNat → s.inAt k = ({ s with inBuf := m } : State).inAt k) →
    ∃ t, runWord w s = .next t ∧ t.inBuf = s.inBuf ∧
      runWord w { s with inBuf := m } = .next { t with inBuf := m }

/-- A command leaves in_len, IN, the parameters and all that is the host's own. -/
def Obligations.CommandsLeaveHostSideAlone : Prop :=
  ∀ (w : Word) (s t : State), runWord w s = .next t →
    t.inBuf = s.inBuf ∧ t.inLen = s.inLen ∧ t.cfg = s.cfg ∧ t.hostScript = s.hostScript ∧
      t.hostData = s.hostData

/-- Issuing a command twice in a row leaves the packet registers as one issue does (R60). -/
def Obligations.CommandsAreIdempotentOnPacket : Prop :=
  ∀ (w : Word) (s t u : State), runWord w s = .next t → runWord w t = .next u → u.pkt = t.pkt

/-- Any list of command words at the head of the host's script, the model's own form of the host (log 6), is
performed whole and in order: after one step a word the state is the one that `runWords` gives, with what
follows the words left in the script; a packet and every recorded error outlive it (R31, R64, R245). -/
def Obligations.CommandSequencesComplete : Prop :=
  ∀ (ws : List Word) (s : State) (rest : List HostAction),
    s.hostScript = ws.map HostAction.issue ++ rest →
    ∃ t, runWords ws { s with hostScript := rest } = .next t ∧
      Sys2Proof.core.run ws.length s = .next t ∧ t.hostScript = rest ∧ t.inBuf = s.inBuf ∧
      t.inLen = s.inLen ∧ t.cfg = s.cfg ∧ (s.pktValid = true → t.pktValid = true) ∧
      s.errSeen &&& t.errSeen = s.errSeen

/-- The pseudo-instruction SEND, issued with 512 values in IN: after its two commands OUT holds the wire
image of the packet with the new start code, values and sequence number, and no other byte of it changed
(R96). -/
def Obligations.SendEmitsUpdatedPacket : Prop :=
  ∀ (sc seq : BitVec 8) (s : State) (rest : List HostAction),
    s.hostScript = issueAll (expand (.send sc seq)) ++ rest →
    s.inLen.toNat = 512 → 512 ≤ s.cfg.inCap → s.pktValid = true →
    ∃ u, Sys2Proof.core.run 2 s = .next u ∧ u.hostScript = rest ∧ u.outLen.toNat = 638 ∧
      u.out.read 111 = some seq ∧ u.out.read 125 = some sc ∧
      (∀ k, k < 512 → u.out.read (126 + k) = some (s.inAt k)) ∧
      (∀ k, k < 125 → k ≠ 111 → u.out.read k = (wireImage s.pkt)[k]?)

-- Host interface, reset and the invariant

/-- A host read of an output register gives the register, zero-extended to the 32 bits of the model's
`hostData` (log 7); a read of IN below IN_CAP, which the model allows (log 15), gives the byte there; and no
read changes anything of the block or gives another value when repeated (R60). -/
def Obligations.HostReadsHaveNoSideEffect : Prop :=
  (∀ (p : HostPort) (s t : State), perform (.read p) s = .next t →
    t = { s with hostData := t.hostData } ∧ perform (.read p) t = .next t) ∧
  ∀ s : State,
    perform (.read .status) s = .next { s with hostData := s.status } ∧
    perform (.read .res0) s = .next { s with hostData := s.res0 } ∧
    perform (.read .res1) s = .next { s with hostData := s.res1 } ∧
    perform (.read .outLen) s = .next { s with hostData := s.outLen.setWidth 32 } ∧
    perform (.read .errSeen) s = .next { s with hostData := s.errSeen.setWidth 32 } ∧
    ∀ i, i < s.cfg.inCap →
      perform (.read (.inByte i)) s = .next { s with hostData := (s.inAt i).setWidth 32 }

/-- A host read of an OUT byte at or past OUT_LEN faults (R52). The fault is the one that log 10 names. -/
def Obligations.OutPastLengthFaults : Prop :=
  ∀ (i : Nat) (s : State), s.outLen.toNat ≤ i →
    perform (.read (.outByte i)) s = .fault .outReadPastLength

/-- In a state with the invariant, a host read of OUT below OUT_LEN gives the byte that is there. -/
def Obligations.OutBelowLengthIsReadable : Prop :=
  ∀ (i : Nat) (s : State), s.Inv → i < s.outLen.toNat →
    ∃ b, s.out.read i = some b ∧
      perform (.read (.outByte i)) s = .next { s with hostData := b.setWidth 32 }

/-- The host writes one byte of IN below IN_CAP and no other; past IN_CAP the access faults (log 9). -/
def Obligations.HostWriteReachesOneByte : Prop :=
  ∀ (i : Nat) (b : Byte) (s : State),
    (s.cfg.inCap ≤ i → perform (.writeIn i b) s = .fault .inIndexOutsideBuffer) ∧
    (i < s.cfg.inCap → ∃ t, perform (.writeIn i b) s = .next t ∧
      (∀ j, t.inAt j = if j = i then b else s.inAt j) ∧ t = { s with inBuf := t.inBuf })

/-- The `.in` directive: its actions, performed, write IN[0..n) with the list, set in_len to n and change
nothing else (R95, log 14). -/
def Obligations.InDirectiveLoadsInput : Prop :=
  ∀ (bs : List Byte) (acts rest : List HostAction) (s : State), inDirective bs = .ok acts →
    bs.length ≤ s.cfg.inCap → s.hostScript = acts ++ rest →
    ∃ t, Sys2Proof.core.run acts.length s = .next t ∧ t.inLen.toNat = bs.length ∧
      (∀ k, t.inAt k = bs.getD k (s.inAt k)) ∧
      t = { s with hostScript := rest, inBuf := t.inBuf, inLen := t.inLen }

/-- Reset, and power-on as a reset, give PKT_VALID, STATUS, RES0, RES1, OUT_LEN and ERR_SEEN their reset
values, and reset does not clear IN (R230). -/
def Obligations.ResetSetsOutputRegisters : Prop :=
  (∀ s : State, ∃ t, perform .reset s = .next t ∧
    t.pktValid = false ∧ t.status = 0#32 ∧ t.res0 = 0#32 ∧ t.res1 = 0#32 ∧ t.outLen = 0#16 ∧
    t.errSeen = 0#8 ∧ ∀ k, t.inAt k = s.inAt k) ∧
  State.reset.pktValid = false ∧ State.reset.status = 0#32 ∧ State.reset.res0 = 0#32 ∧
    State.reset.res1 = 0#32 ∧ State.reset.outLen = 0#16 ∧ State.reset.errSeen = 0#8

/-- With no host action left the codec waits (R233). That a wait is a step which changes nothing is the
model's choice (log 6). -/
def Obligations.CodecWaitsForCommand : Prop :=
  ∀ s : State, s.hostScript = [] → step s = .next s

/-- The invariant holds at reset. What reset leaves in the buffers is the model's choice (logs 2 and 3). -/
def Obligations.ResetHasInvariant : Prop := State.reset.Inv

/-- Every step keeps the invariant. -/
def Obligations.StepKeepsInvariant : Prop :=
  ∀ s t : State, s.Inv → step s = .next t → t.Inv
end

