-- ==== Sys2Proof/Laws/Bytes.lean ====
section
/-! SUPPORT. Byte lists and numbers: lengths, padding, and that the big-endian bytes of a number give it
back. -/

namespace Sys2Proof.Machine

@[simp] theorem length_be2 (v : BitVec 16) : (be2 v).length = 2 := rfl
@[simp] theorem length_be4 (v : BitVec 32) : (be4 v).length = 4 := rfl
@[simp] theorem length_le2 (v : BitVec 16) : (le2 v).length = 2 := rfl
@[simp] theorem length_le4 (v : BitVec 32) : (le4 v).length = 4 := rfl

@[simp] theorem length_padTo (n : Nat) (l : List Byte) : (padTo n l).length = n := by simp [padTo]

@[simp] theorem toList_toArr (n : Nat) (l : List Byte) : (toArr n l).toList = padTo n l := by
  simp [toArr, Vector.toList]

/-- A list of the register's length is stored as it is. -/
theorem padTo_of_length {n : Nat} {l : List Byte} (h : l.length = n) : padTo n l = l := by
  simp [padTo, ← h]

/-- The register that holds a vector's own bytes is that vector. -/
@[simp] theorem toArr_toList {n : Nat} (v : Vector Byte n) : toArr n v.toList = v := by
  apply Vector.toList_inj.mp
  rw [toList_toArr, padTo_of_length (by simp)]

@[simp] theorem length_slice (l : List Byte) (a n : Nat) :
    (slice l a n).length = min n (l.length - a) := by simp [slice]

/-- The big-endian bytes of a 16-bit number give it back. -/
theorem append_be2 (v : BitVec 16) : (v.extractLsb' 8 8 ++ v.extractLsb' 0 8 : BitVec 16) = v := by
  rw [BitVec.extractLsb'_append_extractLsb'_eq_extractLsb' (by rfl)]
  exact BitVec.extractLsb'_eq_self

/-- The big-endian bytes of a 32-bit number give it back. -/
theorem append_be4 (v : BitVec 32) :
    (v.extractLsb' 24 8 ++ v.extractLsb' 16 8 ++ v.extractLsb' 8 8 ++ v.extractLsb' 0 8 : BitVec 32)
      = v := by
  rw [BitVec.extractLsb'_append_extractLsb'_eq_extractLsb' (by rfl),
    BitVec.extractLsb'_append_extractLsb'_eq_extractLsb' (by rfl),
    BitVec.extractLsb'_append_extractLsb'_eq_extractLsb' (by rfl)]
  exact BitVec.extractLsb'_eq_self

@[simp] theorem length_swapSpan (img : List Byte) (sp : Nat × Nat) :
    (swapSpan img sp).length = img.length := by
  simp [swapSpan, slice]; omega

@[simp] theorem length_swapImg (l : Layer) (img : List Byte) : (swapImg l img).length = img.length := by
  cases l <;> simp [swapImg, spans]

/-- A byte of a number by division is its bit field. -/
theorem ofNat_div_pow {n : Nat} (v : BitVec n) (k : Nat) :
    BitVec.ofNat 8 (v.toNat / 2 ^ k) = v.extractLsb' k 8 := by
  apply BitVec.eq_of_toNat_eq
  rw [BitVec.extractLsb'_toNat, BitVec.toNat_ofNat, Nat.shiftRight_eq_div_pow]

/-- be_2 by division is be_2 by bit fields. -/
theorem beBytes_two (v : BitVec 16) : beBytes 2 v.toNat = be2 v :=
  congrArg₂ (fun a b => [a, b]) (ofNat_div_pow v 8) (ofNat_div_pow v 0)

/-- be_4 by division is be_4 by bit fields. -/
theorem beBytes_four (v : BitVec 32) : beBytes 4 v.toNat = be4 v :=
  congrArg₂ List.append
    (congrArg₂ (fun a b => [a, b]) (ofNat_div_pow v 24) (ofNat_div_pow v 16))
    (congrArg₂ (fun a b => [a, b]) (ofNat_div_pow v 8) (ofNat_div_pow v 0))

/-- le_N is be_N from the other end. -/
theorem leBytes_eq_reverse (n v : Nat) : leBytes n v = (beBytes n v).reverse := by
  apply List.ext_getElem
  · simp [leBytes, beBytes]
  · intro k h1 h2
    simp only [leBytes, List.length_map, List.length_range] at h1
    simp only [leBytes, beBytes, List.getElem_reverse, List.getElem_map, List.getElem_range,
      List.length_map, List.length_range]
    congr 3
    omega

theorem beBytes_one (v : BitVec 8) : beBytes 1 v.toNat = [v] := by simp [beBytes]

/-- What one span reversal leaves at each index. -/
theorem getElem?_swapSpan (img : List Byte) (a w i : Nat) (h : a + w ≤ img.length) :
    (swapSpan img (a, w))[i]? =
      if a ≤ i ∧ i < a + w then img[a + w - 1 - (i - a)]? else img[i]? := by
  unfold swapSpan slice
  by_cases h1 : i < a
  · rw [List.append_assoc, List.getElem?_append_left (by simp; omega), List.getElem?_take,
      if_pos h1, if_neg (by omega)]
  · by_cases h2 : i < a + w
    · rw [if_pos (by omega), List.append_assoc, List.getElem?_append_right (by simp; omega),
        List.getElem?_append_left (by simp; omega), List.getElem?_reverse (by simp; omega)]
      simp only [List.length_take, List.length_drop, List.getElem?_take, List.getElem?_drop]
      rw [if_pos (by omega)]
      congr 1
      omega
    · rw [if_neg (by omega), List.getElem?_append_right (by simp; omega), List.getElem?_drop]
      congr 1
      simp
      omega

/-- Two slices end to end are one. -/
theorem slice_add (l : List Byte) (o m n : Nat) :
    slice l o (m + n) = slice l o m ++ slice l (o + m) n := by
  unfold slice
  rw [List.take_add, List.drop_drop]

end Sys2Proof.Machine
end

