-- ==== Sys2Proof/Laws/Decode.lean ====
section
/-! SUPPORT. The fields of an encoded command, format by format, and what a clear reserved mask says of a
word. -/

namespace Sys2Proof

theorem toNat_append {m n : Nat} (x : BitVec m) (y : BitVec n) :
    (x ++ y).toNat = x.toNat * 2 ^ n + y.toNat := by
  rw [BitVec.toNat_append, ← Nat.shiftLeft_add_eq_or_of_lt y.isLt, Nat.shiftLeft_eq]

/-- The number of a word of formats A and V. -/
theorem toNat_word24 (o : BitVec 8) (x : BitVec 24) :
    BitVec.toNat (w := 32) (o ++ x) = o.toNat * 2 ^ 24 + x.toNat := toNat_append o x

/-- The number of a word of formats FL and W. -/
theorem toNat_word16 (o f : BitVec 8) (l : BitVec 16) :
    BitVec.toNat (w := 32) (o ++ f ++ l) = (o.toNat * 2 ^ 8 + f.toNat) * 2 ^ 16 + l.toNat :=
  (toNat_append (o ++ f) l).trans (by rw [toNat_append])

/-- The number of a word of format S. -/
theorem toNat_word8 (o : BitVec 8) (z : BitVec 16) (x : BitVec 8) :
    BitVec.toNat (w := 32) (o ++ z ++ x) = (o.toNat * 2 ^ 16 + z.toNat) * 2 ^ 8 + x.toNat :=
  (toNat_append (o ++ z) x).trans (by rw [toNat_append])

/-- The number of a word of format U. -/
theorem toNat_word88 (o z a b : BitVec 8) :
    BitVec.toNat (w := 32) (o ++ z ++ a ++ b) =
      ((o.toNat * 2 ^ 8 + z.toNat) * 2 ^ 8 + a.toNat) * 2 ^ 8 + b.toNat :=
  (toNat_append (o ++ z ++ a) b).trans (by rw [toNat_append (o ++ z) a, toNat_append])

/-- A bit field of a word, as a number. -/
theorem toNat_field (w : Word) (s l : Nat) :
    (w.extractLsb' s l).toNat = w.toNat / 2 ^ s % 2 ^ l := by
  rw [BitVec.extractLsb'_toNat, Nat.shiftRight_eq_div_pow]

@[simp] theorem opcodeOf_word24 (o : BitVec 8) (x : BitVec 24) : opcodeOf (o ++ x) = o := by
  apply BitVec.eq_of_toNat_eq
  rw [opcodeOf, toNat_field, toNat_word24]
  have := o.isLt; have := x.isLt; omega

@[simp] theorem v24_word24 (o : BitVec 8) (x : BitVec 24) : v24 (o ++ x) = x := by
  apply BitVec.eq_of_toNat_eq
  rw [v24, toNat_field, toNat_word24]
  have := o.isLt; have := x.isLt; omega

@[simp] theorem opcodeOf_word16 (o f : BitVec 8) (l : BitVec 16) : opcodeOf (o ++ f ++ l) = o := by
  apply BitVec.eq_of_toNat_eq
  rw [opcodeOf, toNat_field, toNat_word16]
  have := o.isLt; have := f.isLt; have := l.isLt; omega

@[simp] theorem flg8_word16 (o f : BitVec 8) (l : BitVec 16) : flg8 (o ++ f ++ l) = f := by
  apply BitVec.eq_of_toNat_eq
  rw [flg8, toNat_field, toNat_word16]
  have := o.isLt; have := f.isLt; have := l.isLt; omega

@[simp] theorem len16_word16 (o f : BitVec 8) (l : BitVec 16) : len16 (o ++ f ++ l) = l := by
  apply BitVec.eq_of_toNat_eq
  rw [len16, toNat_field, toNat_word16]
  have := o.isLt; have := f.isLt; have := l.isLt; omega

@[simp] theorem w16_word16 (o f : BitVec 8) (l : BitVec 16) : w16 (o ++ f ++ l) = l :=
  len16_word16 o f l

@[simp] theorem opcodeOf_word8 (o : BitVec 8) (z : BitVec 16) (x : BitVec 8) :
    opcodeOf (o ++ z ++ x) = o := by
  apply BitVec.eq_of_toNat_eq
  rw [opcodeOf, toNat_field, toNat_word8]
  have := o.isLt; have := z.isLt; have := x.isLt; omega

@[simp] theorem sel8_word8 (o : BitVec 8) (z : BitVec 16) (x : BitVec 8) :
    sel8 (o ++ z ++ x) = x := by
  apply BitVec.eq_of_toNat_eq
  rw [sel8, toNat_field, toNat_word8]
  have := o.isLt; have := z.isLt; have := x.isLt; omega

@[simp] theorem opcodeOf_word88 (o z a b : BitVec 8) : opcodeOf (o ++ z ++ a ++ b) = o := by
  apply BitVec.eq_of_toNat_eq
  rw [opcodeOf, toNat_field, toNat_word88]
  have := o.isLt; have := z.isLt; have := a.isLt; have := b.isLt; omega

@[simp] theorem sc8_word88 (o z a b : BitVec 8) : sc8 (o ++ z ++ a ++ b) = a := by
  apply BitVec.eq_of_toNat_eq
  rw [sc8, toNat_field, toNat_word88]
  have := o.isLt; have := z.isLt; have := a.isLt; have := b.isLt; omega

@[simp] theorem seq8_word88 (o z a b : BitVec 8) : seq8 (o ++ z ++ a ++ b) = b := by
  apply BitVec.eq_of_toNat_eq
  rw [seq8, toNat_field, toNat_word88]
  have := o.isLt; have := z.isLt; have := a.isLt; have := b.isLt; omega

/-- A field that a mask covers whole is 0 where the masked word is 0. -/
theorem field_eq_zero_of_mask {w m : Word} (h : w &&& m = 0#32) {s l : Nat}
    (hm : m.extractLsb' s l = BitVec.allOnes l) : w.extractLsb' s l = 0#l := by
  have := congrArg (BitVec.extractLsb' s l) h
  simpa [BitVec.extractLsb'_and, hm] using this

/-- A mask that leaves nothing of a word's fields is clear: bit by bit. -/
theorem and_eq_zero_of_bits {w m : Word} (h : ∀ i, i < 32 → m.getLsbD i = true → w.getLsbD i = false) :
    w &&& m = 0#32 := by
  apply BitVec.eq_of_getLsbD_eq
  intro i hi
  rw [BitVec.getLsbD_and, BitVec.getLsbD_zero]
  by_cases hm : m.getLsbD i
  · simp [h i hi hm]
  · simp [hm]

/-- A word with an opcode of the map and no reserved bit decodes to what the opcode's row builds. -/
theorem decode_of_row {w : Word} {o : BitVec 8} {fmt : Format} {build : Word → Instr} {i : Instr}
    (ho : opcodeOf w = o) (hr : opcodeRow o.toNat = some (fmt, build))
    (hm : w &&& reservedMask fmt = 0#32) (hb : build w = i) : decode w = .ok i := by
  unfold decode
  rw [ho, hr]
  simp only [hm, ne_eq, not_true_eq_false, if_false, hb]

/-- The sixteen rows of the opcode map, and no other. -/
theorem opcodeRow_some {n : Nat} {r : Format × (Word → Instr)} (h : opcodeRow n = some r) :
    (n = 0x01 ∧ r = (.fl, fun word => .flEncode (flg8 word) (len16 word))) ∨
    (n = 0x02 ∧ r = (.w, fun word => .flDecode (w16 word))) ∨
    (n = 0x10 ∧ r = (.s, fun word => .layerInfo (sel8 word))) ∨
    (n = 0x11 ∧ r = (.a, fun _ => .rootSplit)) ∨
    (n = 0x12 ∧ r = (.a, fun _ => .frameSplit)) ∨
    (n = 0x13 ∧ r = (.v, fun word => .setSequence (v24 word))) ∨
    (n = 0x14 ∧ r = (.a, fun _ => .dmpGetStartCode)) ∨
    (n = 0x15 ∧ r = (.a, fun _ => .dmpGetValues)) ∨
    (n = 0x16 ∧ r = (.s, fun word => .readField (sel8 word))) ∨
    (n = 0x20 ∧ r = (.s, fun word => .toNetwork (sel8 word))) ∨
    (n = 0x21 ∧ r = (.s, fun word => .toHost (sel8 word))) ∨
    (n = 0x30 ∧ r = (.w, fun word => .construct (w16 word))) ∨
    (n = 0x31 ∧ r = (.u, fun word => .update (sc8 word) (seq8 word))) ∨
    (n = 0x32 ∧ r = (.a, fun _ => .serialize)) ∨
    (n = 0x33 ∧ r = (.s, fun word => .serializeLayer (sel8 word))) ∨
    (n = 0x34 ∧ r = (.a, fun _ => .deserialize)) := by
  unfold opcodeRow at h
  split at h <;> first | (cases h; done) | (injection h with h; subst h; simp)

end Sys2Proof
end

