-- ==== Sys2Proof/Laws/Flags.lean ====
section
/-! SUPPORT. What the fields of a composed STATUS word read as, and what one recorded error does to
ERR_SEEN. -/

namespace Sys2Proof.Machine

/-- The number of a STATUS word. -/
theorem toNat_statusWord (v : Bool) (cause code : BitVec 8) :
    (statusWord v cause code).toNat = (v.toNat * 2 ^ 8 + cause.toNat) * 2 ^ 8 + code.toNat := by
  refine (toNat_append (0#15 ++ BitVec.ofBool v ++ cause) code).trans ?_
  rw [toNat_append (0#15 ++ BitVec.ofBool v) cause, toNat_append]
  simp [BitVec.toNat_ofBool]

@[simp] theorem statusCode_statusWord (v : Bool) (cause code : BitVec 8) :
    statusCode (statusWord v cause code) = code := by
  apply BitVec.eq_of_toNat_eq
  rw [statusCode, toNat_field, toNat_statusWord]
  have := cause.isLt; have := code.isLt; omega

@[simp] theorem statusCause_statusWord (v : Bool) (cause code : BitVec 8) :
    statusCause (statusWord v cause code) = cause := by
  apply BitVec.eq_of_toNat_eq
  rw [statusCause, toNat_field, toNat_statusWord]
  have := cause.isLt; have := code.isLt; omega

@[simp] theorem statusValid_statusWord (v : Bool) (cause code : BitVec 8) :
    statusValid (statusWord v cause code) = v := by
  have h := toNat_statusWord v cause code
  have h1 := cause.isLt
  have h2 := code.isLt
  have h3 : (statusWord v cause code).toNat / 2 ^ 16 = v.toNat := by rw [h]; omega
  rw [statusValid, BitVec.getLsbD, Nat.testBit_eq_decide_div_mod_eq, h3]
  cases v <;> rfl

/-- STATUS[7:0] of a response after an error is its code. -/
theorem statusCode_afterError (s : State) (code cause : BitVec 8) :
    statusCode (afterError s code cause).status = code := statusCode_statusWord _ _ _

/-- STATUS[7:0] of a successful response is 0. -/
theorem statusCode_afterOk (s : State) (r0 r1 : BitVec 32) (n : Nat) :
    statusCode (afterOk s r0 r1 n).status = 0#8 := statusCode_statusWord _ _ _

/-- Recording an error keeps every recorded error (R35). -/
theorem and_recordError (seen : BitVec 8) (e : ErrorCode) :
    seen &&& recordError seen e = seen := by
  apply BitVec.eq_of_getLsbD_eq
  intro i hi
  simp only [recordError, BitVec.getLsbD_and, BitVec.getLsbD_or]
  cases seen.getLsbD i <;> simp

@[simp] theorem statusReserved_statusWord (v : Bool) (cause code : BitVec 8) :
    statusReserved (statusWord v cause code) = 0#15 := by
  apply BitVec.eq_of_toNat_eq
  rw [statusReserved, toNat_field, toNat_statusWord]
  have := cause.isLt; have := code.isLt; have := v.toNat_lt
  simp; omega

end Sys2Proof.Machine
end

