-- ==== Sys2Proof/Laws/Image.lean ====
section
/-! SUPPORT. The images of a packet have the sizes of the layout, and the display transform gives at most
the bytes it is given. -/

namespace Sys2Proof.Machine

@[simp] theorem length_wireImage (p : Packet) : (wireImage p).length = 638 := by
  unfold wireImage
  rw [List.length_append, Vector.length_toList]
  generalize hq : (_ ++ be2 p.dmp.propertyValueCount).length = q
  have : q = 125 := by
    rw [← hq]
    simp only [List.length_append, length_be2, length_be4, Vector.length_toList, List.length_cons,
      List.length_nil]
  omega

@[simp] theorem length_layerImage (l : Layer) (p : Packet) :
    (layerImage l p).length = layerSize l := by
  cases l <;> simp [layerImage, layerBase, layerSize, rootLen, frameLen, dmpLen]

theorem length_trimFront_le (ts l : List Byte) : (trimFront ts l).length ≤ l.length :=
  List.length_dropWhile_le ..

theorem length_display_le (ts l : List Byte) : (display ts l).length ≤ l.length := by
  unfold display
  have h1 := length_trimFront_le ts (trimFront ts (l.map nulToSpace)).reverse
  have h2 := length_trimFront_le ts (l.map nulToSpace)
  simp only [List.length_reverse, List.length_map] at *
  omega

/-- The number FL packs, for parts in range (R110). -/
theorem toNat_packFlagsLength (f l : BitVec 16) (hf : f.toNat ≤ 15) (hl : l.toNat ≤ 4095) :
    (packFlagsLength f l).toNat = f.toNat * 4096 + l.toNat := by
  unfold packFlagsLength
  rw [BitVec.toNat_or, BitVec.toNat_shiftLeft, Nat.shiftLeft_eq, Nat.mod_eq_of_lt (by omega)]
  have := Nat.shiftLeft_add_eq_or_of_lt (show l.toNat < 2 ^ 12 by omega) f.toNat
  rw [← Nat.shiftLeft_eq, ← this, Nat.shiftLeft_eq]

/-- The flags of a FlagsLength word as a number (R111). -/
theorem toNat_flagsOf (w : BitVec 16) : (flagsOf w).toNat = w.toNat / 4096 := by
  unfold flagsOf
  rw [BitVec.toNat_ushiftRight, Nat.shiftRight_eq_div_pow]

/-- The length of a FlagsLength word as a number (R111). -/
theorem toNat_lengthOf (w : BitVec 16) : (lengthOf w).toNat = w.toNat % 4096 := by
  unfold lengthOf
  rw [BitVec.toNat_and]
  exact Nat.and_two_pow_sub_one_eq_mod _ 12

/-- The byte of a layer's image is the byte of the wire image at the layer's base. -/
theorem getElem?_layerImage (p : Packet) (l : Layer) (k : Nat) (h : k < layerSize l) :
    (layerImage l p)[k]? = (wireImage p)[layerBase l + k]? := by
  unfold layerImage slice
  rw [List.getElem?_take, if_pos h, List.getElem?_drop]

end Sys2Proof.Machine
end

