-- ==== Sys2Proof/Laws/Memory.lean ====
section
/-! SUPPORT. A byte buffer: what a read gives after a block write, and that a block write keeps the
canonical form and the bound. -/

namespace Sys2Proof.Machine

theorem cellsFrom_fst (i : Nat) (bs : List Byte) :
    (cellsFrom i bs).map Prod.fst = List.range' i bs.length := by
  induction bs generalizing i with
  | nil => rfl
  | cons b bs ih => simp [cellsFrom, ih, List.range'_succ]

theorem lookup_cellsFrom (i j : Nat) (bs : List Byte) :
    (cellsFrom i bs).lookup j = if i ≤ j then bs[j - i]? else none := by
  induction bs generalizing i with
  | nil => simp [cellsFrom]
  | cons b bs ih =>
    simp only [cellsFrom, List.lookup_cons, ih]
    by_cases h : j = i
    · subst h; simp
    · have hb : (j == i) = false := by simpa using h
      simp only [hb]
      by_cases hij : i ≤ j
      · have h1 : i + 1 ≤ j := by omega
        have h2 : j - i = (j - (i + 1)) + 1 := by omega
        simp [hij, h1, h2]
      · have h1 : ¬ i + 1 ≤ j := by omega
        simp [hij, h1]

theorem lookup_filter (m : Memory) (p : Nat → Bool) (j : Nat) :
    (m.filter (fun c => p c.1)).lookup j = if p j then m.lookup j else none := by
  induction m with
  | nil => simp
  | cons c m ih =>
    obtain ⟨k, b⟩ := c
    by_cases hp : p k
    · rw [List.filter_cons_of_pos (by simpa using hp), List.lookup_cons, ih, List.lookup_cons]
      by_cases hjk : j = k
      · subst hjk; simp [hp]
      · have hb : (j == k) = false := by simpa using hjk
        simp [hb]
    · rw [List.filter_cons_of_neg (by simpa using hp), ih, List.lookup_cons]
      by_cases hjk : j = k
      · subst hjk; simp [hp]
      · have hb : (j == k) = false := by simpa using hjk
        simp [hb]

theorem lookup_append (m n : Memory) (j : Nat) :
    (m ++ n).lookup j = (m.lookup j).or (n.lookup j) := by
  induction m with
  | nil => simp
  | cons c m ih =>
    obtain ⟨k, b⟩ := c
    rw [List.cons_append, List.lookup_cons, List.lookup_cons, ih]
    cases j == k <;> simp

/-- A read after a block write: the block's byte inside the block, the old byte outside it. -/
theorem Memory.read_writeBlock (m : Memory) (i j : Nat) (bs : List Byte) :
    (m.writeBlock i bs).read j =
      if i ≤ j ∧ j < i + bs.length then bs[j - i]? else m.read j := by
  unfold Memory.read Memory.writeBlock
  rw [lookup_append, lookup_append, lookup_filter m (fun k => decide (k < i)),
    lookup_filter m (fun k => decide (i + bs.length ≤ k)), lookup_cellsFrom]
  by_cases h1 : j < i
  · have h2 : ¬ i ≤ j := by omega
    have h3 : ¬ i + bs.length ≤ j := by omega
    simp [h1, h2, h3]
  · have h2 : i ≤ j := by omega
    by_cases h3 : j < i + bs.length
    · have h4 : j - i < bs.length := by omega
      simp [h1, h2, h3, h4]
    · have h4 : ¬ j - i < bs.length := by omega
      have h5 : i + bs.length ≤ j := by omega
      have h6 : bs[j - i]? = none := by simp; omega
      simp [h1, h2, h3, h5, h6]

/-- A block written from index 0 on. -/
theorem Memory.read_writeBlock_zero (m : Memory) (j : Nat) (bs : List Byte) :
    (m.writeBlock 0 bs).read j = if j < bs.length then bs[j]? else m.read j := by
  simp [Memory.read_writeBlock]

theorem Memory.wf_iff (m : Memory) : m.wf = true ↔ (m.map Prod.fst).Pairwise (· < ·) := by
  simp [Memory.wf]

theorem Memory.within_iff (n : Nat) (m : Memory) :
    m.within n = true ↔ ∀ c ∈ m, c.1 < n := by
  simp [Memory.within]

theorem mem_cellsFrom {c : Host.Cell} {i : Nat} {bs : List Byte} (h : c ∈ cellsFrom i bs) :
    i ≤ c.1 ∧ c.1 < i + bs.length := by
  have h1 : c.1 ∈ (cellsFrom i bs).map Prod.fst := List.mem_map_of_mem h
  rw [cellsFrom_fst, List.mem_range'_1] at h1
  exact h1

/-- A block write keeps the canonical form. -/
theorem Memory.wf_writeBlock {m : Memory} (h : m.wf = true) (i : Nat) (bs : List Byte) :
    (m.writeBlock i bs).wf = true := by
  rw [Memory.wf_iff] at h ⊢
  rw [List.pairwise_map] at h ⊢
  have hc : (cellsFrom i bs).Pairwise (fun a b => a.1 < b.1) := by
    rw [← List.pairwise_map (f := Prod.fst) (R := (· < ·)), cellsFrom_fst]
    exact List.pairwise_lt_range'
  unfold Memory.writeBlock
  rw [List.pairwise_append, List.pairwise_append]
  refine ⟨⟨h.filter _, hc, ?_⟩, h.filter _, ?_⟩
  · intro a ha b hb
    have h1 : a.1 < i := by simpa using (List.mem_filter.mp ha).2
    have h2 := (mem_cellsFrom hb).1
    omega
  · intro a ha b hb
    have h2 : i + bs.length ≤ b.1 := by simpa using (List.mem_filter.mp hb).2
    rcases List.mem_append.mp ha with ha | ha
    · have h1 : a.1 < i := by simpa using (List.mem_filter.mp ha).2
      omega
    · have h1 := (mem_cellsFrom ha).2
      omega

/-- A block write inside the first n bytes keeps every index below n. -/
theorem Memory.within_writeBlock {m : Memory} {n : Nat} (h : m.within n = true) {i : Nat}
    {bs : List Byte} (hb : i + bs.length ≤ n) : (m.writeBlock i bs).within n = true := by
  rw [Memory.within_iff] at h ⊢
  intro c hc
  unfold Memory.writeBlock at hc
  simp only [List.mem_append, List.mem_filter] at hc
  rcases hc with (hc | hc) | hc
  · exact h c hc.1
  · have := (mem_cellsFrom hc).2
    omega
  · exact h c hc.1

end Sys2Proof.Machine
end

