-- ==== Sys2Proof/Laws/State.lean ====
section
/-! SUPPORT. What each update of the state leaves in each field: one lemma per field per update. -/

namespace Sys2Proof.Machine

variable (s : State)

@[simp] theorem State.raise_pkt (e : ErrorCode) (cause : BitVec 8) :
    (s.raise e cause).pkt = s.pkt := rfl
@[simp] theorem State.raise_pktValid (e : ErrorCode) (cause : BitVec 8) :
    (s.raise e cause).pktValid = s.pktValid := rfl
@[simp] theorem State.raise_status (e : ErrorCode) (cause : BitVec 8) :
    (s.raise e cause).status = statusWord s.pktValid cause (errorCode e) := rfl
@[simp] theorem State.raise_res0 (e : ErrorCode) (cause : BitVec 8) :
    (s.raise e cause).res0 = 0#32 := rfl
@[simp] theorem State.raise_res1 (e : ErrorCode) (cause : BitVec 8) :
    (s.raise e cause).res1 = 0#32 := rfl
@[simp] theorem State.raise_outLen (e : ErrorCode) (cause : BitVec 8) :
    (s.raise e cause).outLen = 0#16 := rfl
@[simp] theorem State.raise_out (e : ErrorCode) (cause : BitVec 8) :
    (s.raise e cause).out = s.out := rfl
@[simp] theorem State.raise_errSeen (e : ErrorCode) (cause : BitVec 8) :
    (s.raise e cause).errSeen = recordError s.errSeen e := rfl
@[simp] theorem State.raise_inBuf (e : ErrorCode) (cause : BitVec 8) :
    (s.raise e cause).inBuf = s.inBuf := rfl
@[simp] theorem State.raise_inLen (e : ErrorCode) (cause : BitVec 8) :
    (s.raise e cause).inLen = s.inLen := rfl
@[simp] theorem State.raise_cfg (e : ErrorCode) (cause : BitVec 8) :
    (s.raise e cause).cfg = s.cfg := rfl
@[simp] theorem State.raise_hostScript (e : ErrorCode) (cause : BitVec 8) :
    (s.raise e cause).hostScript = s.hostScript := rfl
@[simp] theorem State.raise_hostData (e : ErrorCode) (cause : BitVec 8) :
    (s.raise e cause).hostData = s.hostData := rfl

@[simp] theorem State.respond_pkt (r0 r1 : BitVec 32) (n : Nat) :
    (s.respond r0 r1 n).pkt = s.pkt := rfl
@[simp] theorem State.respond_pktValid (r0 r1 : BitVec 32) (n : Nat) :
    (s.respond r0 r1 n).pktValid = s.pktValid := rfl
@[simp] theorem State.respond_status (r0 r1 : BitVec 32) (n : Nat) :
    (s.respond r0 r1 n).status = statusWord s.pktValid 0#8 0#8 := rfl
@[simp] theorem State.respond_res0 (r0 r1 : BitVec 32) (n : Nat) :
    (s.respond r0 r1 n).res0 = r0 := rfl
@[simp] theorem State.respond_res1 (r0 r1 : BitVec 32) (n : Nat) :
    (s.respond r0 r1 n).res1 = r1 := rfl
@[simp] theorem State.respond_outLen (r0 r1 : BitVec 32) (n : Nat) :
    (s.respond r0 r1 n).outLen = BitVec.ofNat 16 n := rfl
@[simp] theorem State.respond_out (r0 r1 : BitVec 32) (n : Nat) :
    (s.respond r0 r1 n).out = s.out := rfl
@[simp] theorem State.respond_errSeen (r0 r1 : BitVec 32) (n : Nat) :
    (s.respond r0 r1 n).errSeen = s.errSeen := rfl
@[simp] theorem State.respond_inBuf (r0 r1 : BitVec 32) (n : Nat) :
    (s.respond r0 r1 n).inBuf = s.inBuf := rfl
@[simp] theorem State.respond_inLen (r0 r1 : BitVec 32) (n : Nat) :
    (s.respond r0 r1 n).inLen = s.inLen := rfl
@[simp] theorem State.respond_cfg (r0 r1 : BitVec 32) (n : Nat) :
    (s.respond r0 r1 n).cfg = s.cfg := rfl
@[simp] theorem State.respond_hostScript (r0 r1 : BitVec 32) (n : Nat) :
    (s.respond r0 r1 n).hostScript = s.hostScript := rfl
@[simp] theorem State.respond_hostData (r0 r1 : BitVec 32) (n : Nat) :
    (s.respond r0 r1 n).hostData = s.hostData := rfl

@[simp] theorem State.memWrite_pkt (a : Nat) (v : List Byte) :
    (s.memWrite a v).pkt = s.pkt := rfl
@[simp] theorem State.memWrite_pktValid (a : Nat) (v : List Byte) :
    (s.memWrite a v).pktValid = s.pktValid := rfl
@[simp] theorem State.memWrite_status (a : Nat) (v : List Byte) :
    (s.memWrite a v).status = s.status := rfl
@[simp] theorem State.memWrite_res0 (a : Nat) (v : List Byte) :
    (s.memWrite a v).res0 = s.res0 := rfl
@[simp] theorem State.memWrite_res1 (a : Nat) (v : List Byte) :
    (s.memWrite a v).res1 = s.res1 := rfl
@[simp] theorem State.memWrite_outLen (a : Nat) (v : List Byte) :
    (s.memWrite a v).outLen = s.outLen := rfl
@[simp] theorem State.memWrite_out (a : Nat) (v : List Byte) :
    (s.memWrite a v).out = s.out.writeBlock a v := rfl
@[simp] theorem State.memWrite_errSeen (a : Nat) (v : List Byte) :
    (s.memWrite a v).errSeen = s.errSeen := rfl
@[simp] theorem State.memWrite_inBuf (a : Nat) (v : List Byte) :
    (s.memWrite a v).inBuf = s.inBuf := rfl
@[simp] theorem State.memWrite_inLen (a : Nat) (v : List Byte) :
    (s.memWrite a v).inLen = s.inLen := rfl
@[simp] theorem State.memWrite_cfg (a : Nat) (v : List Byte) :
    (s.memWrite a v).cfg = s.cfg := rfl
@[simp] theorem State.memWrite_hostScript (a : Nat) (v : List Byte) :
    (s.memWrite a v).hostScript = s.hostScript := rfl
@[simp] theorem State.memWrite_hostData (a : Nat) (v : List Byte) :
    (s.memWrite a v).hostData = s.hostData := rfl

@[simp] theorem State.setPacket_pkt (p : Packet) :
    (s.setPacket p).pkt = p := rfl
@[simp] theorem State.setPacket_pktValid (p : Packet) :
    (s.setPacket p).pktValid = s.pktValid := rfl
@[simp] theorem State.setPacket_status (p : Packet) :
    (s.setPacket p).status = s.status := rfl
@[simp] theorem State.setPacket_res0 (p : Packet) :
    (s.setPacket p).res0 = s.res0 := rfl
@[simp] theorem State.setPacket_res1 (p : Packet) :
    (s.setPacket p).res1 = s.res1 := rfl
@[simp] theorem State.setPacket_outLen (p : Packet) :
    (s.setPacket p).outLen = s.outLen := rfl
@[simp] theorem State.setPacket_out (p : Packet) :
    (s.setPacket p).out = s.out := rfl
@[simp] theorem State.setPacket_errSeen (p : Packet) :
    (s.setPacket p).errSeen = s.errSeen := rfl
@[simp] theorem State.setPacket_inBuf (p : Packet) :
    (s.setPacket p).inBuf = s.inBuf := rfl
@[simp] theorem State.setPacket_inLen (p : Packet) :
    (s.setPacket p).inLen = s.inLen := rfl
@[simp] theorem State.setPacket_cfg (p : Packet) :
    (s.setPacket p).cfg = s.cfg := rfl
@[simp] theorem State.setPacket_hostScript (p : Packet) :
    (s.setPacket p).hostScript = s.hostScript := rfl
@[simp] theorem State.setPacket_hostData (p : Packet) :
    (s.setPacket p).hostData = s.hostData := rfl

@[simp] theorem State.setValid_pkt :
    (s.setValid).pkt = s.pkt := rfl
@[simp] theorem State.setValid_pktValid :
    (s.setValid).pktValid = true := rfl
@[simp] theorem State.setValid_status :
    (s.setValid).status = s.status := rfl
@[simp] theorem State.setValid_res0 :
    (s.setValid).res0 = s.res0 := rfl
@[simp] theorem State.setValid_res1 :
    (s.setValid).res1 = s.res1 := rfl
@[simp] theorem State.setValid_outLen :
    (s.setValid).outLen = s.outLen := rfl
@[simp] theorem State.setValid_out :
    (s.setValid).out = s.out := rfl
@[simp] theorem State.setValid_errSeen :
    (s.setValid).errSeen = s.errSeen := rfl
@[simp] theorem State.setValid_inBuf :
    (s.setValid).inBuf = s.inBuf := rfl
@[simp] theorem State.setValid_inLen :
    (s.setValid).inLen = s.inLen := rfl
@[simp] theorem State.setValid_cfg :
    (s.setValid).cfg = s.cfg := rfl
@[simp] theorem State.setValid_hostScript :
    (s.setValid).hostScript = s.hostScript := rfl
@[simp] theorem State.setValid_hostData :
    (s.setValid).hostData = s.hostData := rfl

@[simp] theorem Packet.withSequence_root (p : Packet) (v : BitVec 8) :
    (p.withSequence v).root = p.root := rfl
@[simp] theorem Packet.withSequence_frame (p : Packet) (v : BitVec 8) :
    (p.withSequence v).frame = { p.frame with sequenceNumber := v } := rfl
@[simp] theorem Packet.withSequence_dmp (p : Packet) (v : BitVec 8) :
    (p.withSequence v).dmp = p.dmp := rfl
@[simp] theorem Packet.withValues_root (p : Packet) (sc : BitVec 8) (vals : List Byte) :
    (p.withValues sc vals).root = p.root := rfl
@[simp] theorem Packet.withValues_frame (p : Packet) (sc : BitVec 8) (vals : List Byte) :
    (p.withValues sc vals).frame = p.frame := rfl
@[simp] theorem Packet.withValues_dmp (p : Packet) (sc : BitVec 8) (vals : List Byte) :
    (p.withValues sc vals).dmp = { p.dmp with propertyValues := toArr 513 (sc :: vals) } := rfl

end Sys2Proof.Machine
end

