-- ==== Sys2Proof/Laws/Ops.lean ====
section
/-! SUPPORT. One lemma per shared operation that says all it can do; proofs cite these and do not unfold
the operation. -/

namespace Sys2Proof.Machine

@[simp] theorem length_memRead (s : State) (a n : Nat) : (s.memRead a n).length = n := by
  simp [State.memRead]

/-- MemRead gives IN[a + k] at index k and nothing past its length. -/
theorem getElem?_memRead (s : State) (a n k : Nat) :
    (s.memRead a n)[k]? = if k < n then some (s.inAt (a + k)) else none := by
  by_cases h : k < n <;> simp [State.memRead, h]

/-- MemRead depends on IN only through the bytes it reads. -/
theorem memRead_congr {s t : State} {a n : Nat} (h : ∀ k, k < n → s.inAt (a + k) = t.inAt (a + k)) :
    s.memRead a n = t.memRead a n := by
  unfold State.memRead
  exact List.map_congr_left fun k hk => h k (List.mem_range.mp hk)

/-- The error step is the one that the rule describes. -/
theorem raise_eq_afterError (s : State) (e : ErrorCode) (cause : BitVec 8) :
    s.raise e cause = afterError s (errorCode e) cause := rfl

/-- The success step is the one that the rule describes. -/
theorem respond_eq_afterOk (s : State) (r0 r1 : BitVec 32) (n : Nat) :
    s.respond r0 r1 n = afterOk s r0 r1 n := rfl

/-- MemWrite of a block from index 0 on. -/
theorem outIs_memWrite (s : State) (bs : List Byte) : outIs s (s.memWrite 0 bs) bs := fun j =>
  Memory.read_writeBlock_zero s.out j bs

/-- Two MemWrites end to end are one. -/
theorem outIs_memWrite_memWrite (s : State) (as bs : List Byte) (n : Nat) (h : as.length = n) :
    outIs s ((s.memWrite 0 as).memWrite n bs) (as ++ bs) := by
  intro j
  simp only [State.memWrite_out, Memory.read_writeBlock, List.length_append, Nat.zero_le, true_and,
    Nat.zero_add, Nat.sub_zero]
  subst h
  by_cases h1 : j < as.length
  · have h2 : ¬ as.length ≤ j := by omega
    have h3 : j < as.length + bs.length := by omega
    simp [h1, h2, h3]
  · have h2 : as.length ≤ j := by omega
    by_cases h3 : j < as.length + bs.length
    · simp [h2, h3]
    · simp [h1, h3]

theorem layerOfSel_eq_none {sel : BitVec 8} (h : 3 ≤ sel.toNat) : layerOfSel sel = none := by
  unfold layerOfSel
  split <;> first | omega | rfl

/-- A selector selects the layer whose selector it is. -/
theorem layerOfSel_layerSel (l : Layer) : layerOfSel (layerSel l) = some l := by cases l <;> rfl

theorem layerOfSel_some {sel : BitVec 8} {l : Layer} (h : layerOfSel sel = some l) :
    sel = layerSel l := by
  unfold layerOfSel at h
  split at h <;> cases h <;> (apply BitVec.eq_of_toNat_eq; simpa [layerSel])

/-- A field id names the field whose id it is. -/
theorem fieldOfId_fieldId (f : Field) : fieldOfId (fieldId f) = some f := by cases f <;> rfl

theorem fieldOfId_some {fid : BitVec 8} {f : Field} (h : fieldOfId fid = some f) :
    fid = fieldId f := by
  have := List.find?_some h
  simpa using (of_decide_eq_true this).symm

/-- The rows of the layer table are the selector, base and size of each layer. -/
theorem of_mem_layerTable {sel : BitVec 8} {l : Layer} {base size : Nat}
    (h : (sel, l, base, size) ∈ layerTable) :
    sel = layerSel l ∧ base = layerBase l ∧ size = layerSize l := by
  simp only [layerTable, List.mem_cons, Prod.mk.injEq, List.not_mem_nil, or_false] at h
  rcases h with ⟨rfl, rfl, rfl, rfl⟩ | ⟨rfl, rfl, rfl, rfl⟩ | ⟨rfl, rfl, rfl, rfl⟩ <;>
    exact ⟨rfl, rfl, rfl⟩

/-- The buffers are in canonical form at reset. -/
theorem wf_reset : State.reset.out.wf = true ∧ State.reset.inBuf.wf = true := ⟨rfl, rfl⟩

/-- What a reset sets: all of `State.reset` but what the host holds. -/
theorem hostReset_eq (s : State) : ∃ t, hostReset s = .next t ∧ t.inBuf = s.inBuf ∧
    t.inLen = s.inLen ∧ t.cfg = s.cfg ∧ t.hostScript = s.hostScript ∧ t.hostData = s.hostData ∧
    t.pkt = Packet.zero ∧ t.pktValid = false ∧ t.status = 0#32 ∧ t.out = [] :=
  ⟨_, rfl, rfl, rfl, rfl, rfl, rfl, rfl, rfl, rfl, rfl⟩

end Sys2Proof.Machine
end

