-- ==== Sys2Proof/Laws/Exec.lean ====
section
/-! SUPPORT. What any command can do, said once: it raises, or it answers. Proofs over all commands cite
`exec_result` and do not unfold the meanings. -/

namespace Sys2Proof.Machine

/-- The command raised: the error step, with a code and a cause of the tables. -/
def Raised (s t : State) : Prop :=
  ∃ e cause, t = s.raise e cause ∧ ((errorCode e).toNat, cause.toNat) ∈ legalStatus

/-- The command answered `bs` in OUT, with the packet `p` and PKT_VALID `v` after it. -/
def Answered (s t : State) (p : Packet) (v : Bool) (bs : List Byte) : Prop :=
  ∃ m r0 r1, t = ({ s with pkt := p, pktValid := v, out := m } : State).respond r0 r1 bs.length ∧
    bs.length ≤ 638 ∧ (∀ j, m.read j = if j < bs.length then bs[j]? else s.out.read j) ∧
    (s.out.wf = true → m.wf = true) ∧ (s.out.within 638 = true → m.within 638 = true)

/-- An answer without bytes leaves OUT as it is. -/
theorem Answered.ofNone (s : State) (p : Packet) (v : Bool) (r0 r1 : BitVec 32) :
    Answered s (({ s with pkt := p, pktValid := v } : State).respond r0 r1 0) p v [] :=
  ⟨s.out, r0, r1, rfl, by simp, by simp, id, id⟩

/-- An answer of one block of bytes. -/
theorem Answered.ofBlock (s : State) (r0 r1 : BitVec 32) (bs : List Byte) (n : Nat)
    (hn : bs.length = n) (h : n ≤ 638) :
    Answered s ((s.memWrite 0 bs).respond r0 r1 n) s.pkt s.pktValid bs := by
  subst hn
  refine ⟨s.out.writeBlock 0 bs, r0, r1, rfl, h, fun j => Memory.read_writeBlock_zero _ _ _,
    fun hw => Memory.wf_writeBlock hw _ _, fun hw => Memory.within_writeBlock hw (by omega)⟩

/-- An answer of two blocks end to end. -/
theorem Answered.ofTwoBlocks (s : State) (r0 r1 : BitVec 32) (as bs : List Byte) (a n : Nat)
    (ha : as.length = a) (hn : a + bs.length = n) (h : n ≤ 638) :
    Answered s (((s.memWrite 0 as).memWrite a bs).respond r0 r1 n) s.pkt s.pktValid (as ++ bs) := by
  subst ha
  subst hn
  refine ⟨(s.out.writeBlock 0 as).writeBlock as.length bs, r0, r1, ?_, by simpa using h,
    outIs_memWrite_memWrite s as bs as.length rfl,
    fun hw => Memory.wf_writeBlock (Memory.wf_writeBlock hw _ _) _ _,
    fun hw => Memory.within_writeBlock (Memory.within_writeBlock hw (by omega)) (by omega)⟩
  rw [List.length_append]
  rfl

/-- The bytes of an array field fit OUT. -/
theorem length_get_le (p : Packet) (f : Field) (bs : List Byte) (h : p.get f = .array bs) :
    bs.length ≤ 638 := by
  cases f <;> simp only [Packet.get, reduceCtorEq, FieldValue.array.injEq] at h <;> subst h <;>
    rw [Vector.length_toList] <;> decide

/-- Every output form of a field read is an answer that keeps the packet. -/
theorem answered_respondField (s : State) (f : Field) :
    ∃ bs, Answered s (s.respondField (s.pkt.get f)) s.pkt s.pktValid bs := by
  cases h : s.pkt.get f with
  | s8 v => exact ⟨_, Answered.ofNone ..⟩
  | s16 v => exact ⟨_, Answered.ofNone ..⟩
  | s32 v => exact ⟨_, Answered.ofNone ..⟩
  | array bs => exact ⟨bs, Answered.ofBlock _ _ _ _ _ rfl (length_get_le _ _ _ h)⟩

/-- PKT_VALID and the packet registers are as before. -/
def Keeps (s : State) (p : Packet) (v : Bool) : Prop := p = s.pkt ∧ v = s.pktValid

/-- What a command of each kind may do to the packet registers and PKT_VALID (R27, R29). -/
def packetEffect (s : State) : Instr → Packet → Bool → Prop
  | .flEncode _ _ => Keeps s
  | .flDecode _ => Keeps s
  | .layerInfo _ => Keeps s
  | .rootSplit => Keeps s
  | .frameSplit => Keeps s
  | .setSequence q => fun p v =>
    p = s.pkt.withSequence (BitVec.ofNat 8 (q.toNat % 256)) ∧ v = s.pktValid
  | .dmpGetStartCode => Keeps s
  | .dmpGetValues => Keeps s
  | .readField _ => Keeps s
  | .toNetwork _ => Keeps s
  | .toHost _ => Keeps s
  | .construct u => fun p v => p = constructed s.cidOperand u s.nameOperand ∧ v = true
  | .update sc seq => fun p v =>
    p = (s.pkt.withValues sc s.valuesOperand).withSequence seq ∧ v = s.pktValid
  | .serialize => Keeps s
  | .serializeLayer _ => Keeps s
  | .deserialize => fun p v => p = packetOfWire s.packetOperand ∧ v = true

/-- The outcome is a next state, raised or answered with this effect on the packet. -/
def Result (s : State) (E : Packet → Bool → Prop) (o : Host.Outcome State Fault Refusal) : Prop :=
  ∃ t, o = .next t ∧ (Raised s t ∨ ∃ p v bs, E p v ∧ Answered s t p v bs)

theorem Result.raised {s : State} {E : Packet → Bool → Prop} {e : ErrorCode} {cause : BitVec 8}
    (h : ((errorCode e).toNat, cause.toNat) ∈ legalStatus) : Result s E (answer (s.raise e cause)) :=
  ⟨_, rfl, .inl ⟨e, cause, rfl, h⟩⟩

theorem Result.answered {s t : State} {E : Packet → Bool → Prop} {p : Packet} {v : Bool}
    {bs : List Byte} (h : Answered s t p v bs) (he : E p v) : Result s E (answer t) :=
  ⟨t, rfl, .inr ⟨p, v, bs, he, h⟩⟩

theorem Result.ite {s : State} {E : Packet → Bool → Prop} {c : Prop} [Decidable c]
    {a b : Host.Outcome State Fault Refusal} (ha : c → Result s E a) (hb : ¬c → Result s E b) :
    Result s E (if c then a else b) := by
  by_cases h : c
  · rw [if_pos h]; exact ha h
  · rw [if_neg h]; exact hb h

/-- FL_ENCODE raises with a legal cause mask. -/
theorem flEncodeCause_legal {f : BitVec 8} {l : BitVec 16} (h : flEncodeCause f l ≠ 0#8) :
    ((errorCode .outOfRange).toNat, (flEncodeCause f l).toNat) ∈ legalStatus := by
  unfold flEncodeCause at h ⊢
  by_cases hf : f.toNat > 0xF <;> by_cases hl : l.toNat > 0xFFF <;>
    simp only [hf, hl, if_true, if_false] at h ⊢
  · decide
  · decide
  · decide
  · exact absurd rfl h

/-- What TO_NETWORK and TO_HOST can do. -/
theorem convertLayer_result (sel : BitVec 8) (s : State) : Result s (Keeps s) (convertLayer sel s) := by
  unfold convertLayer
  refine .ite (fun _ => .raised (by decide)) fun _ => ?_
  cases layerOfSel sel with
  | none => exact .raised (by decide)
  | some l =>
    refine .ite (fun _ => .raised (by decide)) fun _ => ?_
    refine .answered (.ofBlock s _ _ _ _ (by simp [State.layerOperand]) ?_) ⟨rfl, rfl⟩
    cases l <;> decide

/-- Every command answers a next state: it raises, or it answers with its packet effect. -/
theorem exec_result (i : Instr) (s : State) : Result s (packetEffect s i) (exec i s) := by
  cases i with
  | flEncode f l =>
    exact .ite (fun h => .raised (flEncodeCause_legal h)) fun _ => .answered (.ofNone ..) ⟨rfl, rfl⟩
  | flDecode w => exact .answered (.ofNone ..) ⟨rfl, rfl⟩
  | layerInfo sel =>
    show Result s (Keeps s) (execLayerInfo sel s)
    unfold execLayerInfo
    cases layerOfSel sel with
    | none => exact .raised (by decide)
    | some l =>
      exact .ite (fun _ => .raised (by decide)) fun _ => .answered (.ofNone ..) ⟨rfl, rfl⟩
  | rootSplit =>
    refine .ite (fun _ => .raised (by decide)) fun _ => ?_
    refine .answered (.ofTwoBlocks s _ _ _ _ 16 _ (by simp) rfl ?_) ⟨rfl, rfl⟩
    have := length_display_le s.cfg.trimSet s.pkt.root.acnPacketIdentifier.toList
    rw [Vector.length_toList] at this
    omega
  | frameSplit =>
    refine .ite (fun _ => .raised (by decide)) fun _ => ?_
    refine .answered (.ofBlock s _ _ _ _ rfl ?_) ⟨rfl, rfl⟩
    have := length_display_le s.cfg.trimSet s.pkt.frame.sourceName.toList
    rw [Vector.length_toList] at this
    omega
  | setSequence v =>
    exact .ite (fun _ => .raised (by decide)) fun _ =>
      .answered (.ofNone s _ _ _ _) ⟨rfl, rfl⟩
  | dmpGetStartCode =>
    exact .ite (fun _ => .raised (by decide)) fun _ =>
      .answered (.ofNone s _ _ _ _) ⟨rfl, rfl⟩
  | dmpGetValues =>
    exact .ite (fun _ => .raised (by decide)) fun _ =>
      .answered (.ofBlock s _ _ _ _ (by simp [dmxSlots]) (by decide)) ⟨rfl, rfl⟩
  | readField fid =>
    show Result s (Keeps s) (execReadField fid s)
    unfold execReadField
    cases fieldOfId fid with
    | none => exact .raised (by decide)
    | some f =>
      refine .ite (fun _ => .raised (by decide)) fun _ => ?_
      obtain ⟨bs, h⟩ := answered_respondField s f
      exact .answered h ⟨rfl, rfl⟩
  | toNetwork sel => exact convertLayer_result sel s
  | toHost sel => exact convertLayer_result sel s
  | construct u =>
    exact .ite (fun _ => .raised (by decide)) fun _ => .ite (fun _ => .raised (by decide)) fun _ =>
      .ite (fun _ => .raised (by decide)) fun _ => .answered (.ofNone s _ _ _ _) ⟨rfl, rfl⟩
  | update sc seq =>
    exact .ite (fun _ => .raised (by decide)) fun _ => .ite (fun _ => .raised (by decide)) fun _ =>
      .ite (fun _ => .raised (by decide)) fun _ => .answered (.ofNone s _ _ _ _) ⟨rfl, rfl⟩
  | serialize =>
    exact .ite (fun _ => .raised (by decide)) fun _ =>
      .answered (.ofBlock s _ _ _ _ (by simp [pktLen]) (by decide)) ⟨rfl, rfl⟩
  | serializeLayer sel =>
    show Result s (Keeps s) (execSerializeLayer sel s)
    unfold execSerializeLayer
    cases layerOfSel sel with
    | none => exact .raised (by decide)
    | some l =>
      refine .ite (fun _ => .raised (by decide)) fun _ => ?_
      refine .answered (.ofBlock s _ _ _ _ (length_layerImage ..) ?_) ⟨rfl, rfl⟩
      cases l <;> decide
  | deserialize =>
    exact .ite (fun _ => .raised (by decide)) fun _ => .ite (fun _ => .raised (by decide)) fun _ =>
      .answered (.ofNone s _ _ _ _) ⟨rfl, rfl⟩

/-- Every word answers a next state: it raises, or it is a command that answers. -/
theorem runWord_result (w : Word) (s : State) : ∃ t, runWord w s = .next t ∧
    (Raised s t ∨ ∃ i p v bs, decode w = .ok i ∧ packetEffect s i p v ∧ Answered s t p v bs) := by
  unfold runWord
  cases h : decode w with
  | error e => exact ⟨_, rfl, .inl ⟨.illegalCommand, decodeCause e, rfl, by cases e <;> decide⟩⟩
  | ok i =>
    obtain ⟨t, ht, hr⟩ := exec_result i s
    refine ⟨t, ht, ?_⟩
    rcases hr with hr | ⟨p, v, bs, he, ha⟩
    · exact .inl hr
    · exact .inr ⟨i, p, v, bs, rfl, he, ha⟩

/-- `o'` is `o` with `r` as the host's script. -/
def ScriptOnly (r : List HostAction) (o o' : Host.Outcome State Fault Refusal) : Prop :=
  ∀ t, o = .next t → o' = .next { t with hostScript := r }

theorem ScriptOnly.next {r : List HostAction} (t : State) :
    ScriptOnly r (.next t) (.next { t with hostScript := r }) := by
  intro u h; cases h; rfl

theorem ScriptOnly.ite {r : List HostAction} {c : Prop} [Decidable c]
    {a b a' b' : Host.Outcome State Fault Refusal} (ha : ScriptOnly r a a') (hb : ScriptOnly r b b') :
    ScriptOnly r (if c then a else b) (if c then a' else b') := by
  split
  · exact ha
  · exact hb

/-- A command neither reads nor writes the host's script. -/
theorem exec_script (i : Instr) (s : State) (r : List HostAction) :
    ScriptOnly r (exec i s) (exec i { s with hostScript := r }) := by
  cases i with
  | flEncode | rootSplit | frameSplit | setSequence | dmpGetStartCode | dmpGetValues | serialize =>
    exact .ite (.next _) (.next _)
  | flDecode => exact .next _
  | layerInfo sel | serializeLayer sel =>
    simp only [exec, execLayerInfo, execSerializeLayer]
    cases layerOfSel sel with
    | none => exact .next _
    | some l => exact .ite (.next _) (.next _)
  | readField fid =>
    simp only [exec, execReadField]
    cases fieldOfId fid with
    | none => exact .next _
    | some f => refine .ite (.next _) ?_; cases s.pkt.get f <;> exact .next _
  | toNetwork sel | toHost sel =>
    simp only [exec, execToNetwork, execToHost, convertLayer]
    refine .ite (.next _) ?_
    cases layerOfSel sel with
    | none => exact .next _
    | some l => exact .ite (.next _) (.next _)
  | construct | update => exact .ite (.next _) (.ite (.next _) (.ite (.next _) (.next _)))
  | deserialize => exact .ite (.next _) (.ite (.next _) (.next _))

/-- A command word neither reads nor writes the host's script. -/
theorem runWord_script {w : Word} {s t : State} (r : List HostAction) (h : runWord w s = .next t) :
    runWord w { s with hostScript := r } = .next { t with hostScript := r } := by
  unfold runWord at h ⊢
  cases hd : decode w with
  | error e => rw [hd] at h; exact ScriptOnly.next _ t h
  | ok i => rw [hd] at h; exact exec_script i s r t h

@[simp] theorem runWords_nil (s : State) : runWords [] s = .next s := rfl

/-- A list of words is its first word and then the others on the state that word left. -/
theorem runWords_cons {w : Word} {s t : State} (ws : List Word) (h : runWord w s = .next t) :
    runWords (w :: ws) s = runWords ws t := by
  rw [runWords, h]

end Sys2Proof.Machine
end

