-- ==== Sys2Proof/Laws/PerInstr.lean ====
section
/-! SUPPORT. A statement for every command, one lemma per constructor: the encoded word has an opcode of
the command's own format and a 0 in every bit that the format reserves. -/

namespace Sys2Proof.Laws.EncodeLayout

/-- The opcode's row has the command's format, and the reserved bits are 0 (30_encoding.md R81, R89,
R91). -/
def Statement (i : Instr) : Prop :=
  (opcodeRow (opcodeOf (encode i)).toNat).map Prod.fst = some (formatOf i) ∧
    encode i &&& reservedMask (formatOf i) = 0#32

/-- Format W reserves word[23:16]. -/
theorem mask_w (o : BitVec 8) (x : BitVec 16) :
    ((o ++ 0x00#8 ++ x : Word) &&& 0x00FF0000#32) = 0#32 := by
  change (o ++ 0x00#8 ++ x) &&& (0x00#8 ++ 0xFF#8 ++ 0x0000#16) = _
  rw [BitVec.and_append, BitVec.and_append, BitVec.and_zero, BitVec.zero_and, BitVec.and_zero]
  rfl

/-- Format U reserves word[23:16]. -/
theorem mask_u (o a b : BitVec 8) :
    ((o ++ 0x00#8 ++ a ++ b : Word) &&& 0x00FF0000#32) = 0#32 := by
  change (o ++ 0x00#8 ++ a ++ b) &&& (0x00#8 ++ 0xFF#8 ++ 0x00#8 ++ 0x00#8) = (_ : BitVec (8 + 8 + 8 + 8))
  rw [BitVec.and_append, BitVec.and_append, BitVec.and_append, BitVec.and_zero, BitVec.zero_and,
    BitVec.and_zero, BitVec.and_zero]
  rfl

/-- Format S reserves word[23:8]. -/
theorem mask_s (o x : BitVec 8) :
    ((o ++ 0x0000#16 ++ x : Word) &&& 0x00FFFF00#32) = 0#32 := by
  change (o ++ 0x0000#16 ++ x) &&& (0x00#8 ++ 0xFFFF#16 ++ 0x00#8) = _
  rw [BitVec.and_append, BitVec.and_append, BitVec.and_zero, BitVec.zero_and, BitVec.and_zero]
  rfl

theorem flEncode (flg : BitVec 8) (len : BitVec 16) : Statement (.flEncode flg len) :=
  ⟨by rw [show opcodeOf (encode (.flEncode flg len)) = 0x01#8 from opcodeOf_word16 _ _ _]; rfl,
   BitVec.and_zero⟩

theorem flDecode (w : BitVec 16) : Statement (.flDecode w) :=
  ⟨by rw [show opcodeOf (encode (.flDecode w)) = 0x02#8 from opcodeOf_word16 _ _ _]; rfl,
   mask_w _ w⟩

theorem layerInfo (sel : BitVec 8) : Statement (.layerInfo sel) :=
  ⟨by rw [show opcodeOf (encode (.layerInfo sel)) = 0x10#8 from opcodeOf_word8 _ _ _]; rfl,
   mask_s _ sel⟩

theorem rootSplit : Statement .rootSplit := ⟨rfl, rfl⟩

theorem frameSplit : Statement .frameSplit := ⟨rfl, rfl⟩

theorem setSequence (v : BitVec 24) : Statement (.setSequence v) :=
  ⟨by rw [show opcodeOf (encode (.setSequence v)) = 0x13#8 from opcodeOf_word24 _ _]; rfl,
   BitVec.and_zero⟩

theorem dmpGetStartCode : Statement .dmpGetStartCode := ⟨rfl, rfl⟩

theorem dmpGetValues : Statement .dmpGetValues := ⟨rfl, rfl⟩

theorem readField (fid : BitVec 8) : Statement (.readField fid) :=
  ⟨by rw [show opcodeOf (encode (.readField fid)) = 0x16#8 from opcodeOf_word8 _ _ _]; rfl,
   mask_s _ fid⟩

theorem toNetwork (sel : BitVec 8) : Statement (.toNetwork sel) :=
  ⟨by rw [show opcodeOf (encode (.toNetwork sel)) = 0x20#8 from opcodeOf_word8 _ _ _]; rfl,
   mask_s _ sel⟩

theorem toHost (sel : BitVec 8) : Statement (.toHost sel) :=
  ⟨by rw [show opcodeOf (encode (.toHost sel)) = 0x21#8 from opcodeOf_word8 _ _ _]; rfl,
   mask_s _ sel⟩

theorem construct (u : BitVec 16) : Statement (.construct u) :=
  ⟨by rw [show opcodeOf (encode (.construct u)) = 0x30#8 from opcodeOf_word16 _ _ _]; rfl,
   mask_w _ u⟩

theorem update (sc seq : BitVec 8) : Statement (.update sc seq) :=
  ⟨by rw [show opcodeOf (encode (.update sc seq)) = 0x31#8 from opcodeOf_word88 _ _ _ _]; rfl,
   mask_u _ sc seq⟩

theorem serialize : Statement .serialize := ⟨rfl, rfl⟩

theorem serializeLayer (sel : BitVec 8) : Statement (.serializeLayer sel) :=
  ⟨by rw [show opcodeOf (encode (.serializeLayer sel)) = 0x33#8 from opcodeOf_word8 _ _ _]; rfl,
   mask_s _ sel⟩

theorem deserialize : Statement .deserialize := ⟨rfl, rfl⟩

end Sys2Proof.Laws.EncodeLayout
end

