-- ==== Sys2Proof/Tests/Slice0.lean ====
section
/-! SUPPORT. The model's own tests. Expected values are the rows of 95_test_vectors.md, or are written out
from the rule named; the witnesses at the end meet the hypotheses of the statements. -/

namespace Sys2Proof.Tests

open Sys2Proof.Machine

-- What WellFormed refuses

theorem test_config_default : Config.default.wellFormed = true := by decide
theorem test_inCap_too_small : (⟨637, Config.default.trimSet⟩ : Config).wellFormed = false := by decide
theorem test_inCap_least : (⟨638, Config.default.trimSet⟩ : Config).inCapOk = true := by decide
theorem test_inCap_too_large : (⟨65536, Config.default.trimSet⟩ : Config).wellFormed = false := by
  decide
theorem test_trimSet_without_space : (⟨1024, [0x09#8, 0x0A#8]⟩ : Config).wellFormed = false := by
  decide

-- Decoding: every word written out, opcode byte and operand fields, from R81 to R89

theorem test_decode_flEncode :
    decode 0b00000001_00000111_00000010_01111110#32 = .ok (.flEncode 7#8 638#16) := by rfl
theorem test_decode_flDecode :
    decode 0b00000010_00000000_01110010_01111110#32 = .ok (.flDecode 0x727E#16) := by rfl
theorem test_decode_layerInfo :
    decode 0b00010000_00000000_00000000_00000001#32 = .ok (.layerInfo 1#8) := by rfl
theorem test_decode_rootSplit :
    decode 0b00010001_00000000_00000000_00000000#32 = .ok .rootSplit := by rfl
theorem test_decode_frameSplit :
    decode 0b00010010_00000000_00000000_00000000#32 = .ok .frameSplit := by rfl
theorem test_decode_setSequence :
    decode 0b00010011_00010010_00110100_01010110#32 = .ok (.setSequence 0x123456#24) := by rfl
theorem test_decode_dmpGetStartCode :
    decode 0b00010100_00000000_00000000_00000000#32 = .ok .dmpGetStartCode := by rfl
theorem test_decode_dmpGetValues :
    decode 0b00010101_00000000_00000000_00000000#32 = .ok .dmpGetValues := by rfl
theorem test_decode_readField :
    decode 0b00010110_00000000_00000000_00010111#32 = .ok (.readField 0x17#8) := by rfl
theorem test_decode_toNetwork :
    decode 0b00100000_00000000_00000000_00000010#32 = .ok (.toNetwork 2#8) := by rfl
theorem test_decode_toHost :
    decode 0b00100001_00000000_00000000_11111111#32 = .ok (.toHost 255#8) := by rfl
theorem test_decode_construct :
    decode 0b00110000_00000000_11111001_11111111#32 = .ok (.construct 63999#16) := by rfl
theorem test_decode_update :
    decode 0b00110001_00000000_11001100_00000011#32 = .ok (.update 0xCC#8 3#8) := by rfl
theorem test_decode_serialize :
    decode 0b00110010_00000000_00000000_00000000#32 = .ok .serialize := by rfl
theorem test_decode_serializeLayer :
    decode 0b00110011_00000000_00000000_00000010#32 = .ok (.serializeLayer 2#8) := by rfl
theorem test_decode_deserialize :
    decode 0b00110100_00000000_00000000_00000000#32 = .ok .deserialize := by rfl

theorem test_illegal_opcodes :
    [0x00000000#32, 0x03000000#32, 0x0F000000#32, 0x17000000#32, 0x1F000000#32, 0x22000000#32,
      0x2F000000#32, 0x35000000#32, 0xFF000000#32].all
      (fun w => decide (decode w = .error .illegalOpcode)) = true := by decide
theorem test_reserved_bits :
    [0x0201727E#32, 0x10000100#32, 0x11000001#32, 0x30010005#32, 0x31800000#32, 0x34800000#32].all
      (fun w => decide (decode w = .error .reservedBits)) = true := by decide
theorem test_decodeTableWord : decodeTableWord 32 0x31000001 = some (.update 0#8 1#8) := by rfl

-- The assembler

theorem test_assemble_program : assemble (".in repeat(2, 0x0A) ++ \"W;\" ++ [7] ; load\n"
      ++ "CONSTRUCT 9\n\nGET_SEQ") =
    .ok [.writeIn 0 0x0A#8, .writeIn 1 0x0A#8, .writeIn 2 0x57#8, .writeIn 3 0x3B#8, .writeIn 4 7#8,
      .setInLen 5#16, .issue 0x30000009#32, .issue 0x16000015#32] := by rfl
theorem test_assemble_pseudo : assemble "SEND 0, 1\nFL_PACK 638\nGET_UNIVERSE\nGET_CID\nGET_NAME_RAW" =
    .ok [.issue 0x31000001#32, .issue 0x32000000#32, .issue 0x0107027E#32, .issue 0x16000017#32,
      .issue 0x16000005#32, .issue 0x16000012#32] := by rfl
theorem test_assemble_in_len : assemble ".in_len 0x200" = .ok [.setInLen 512#16] := by rfl
theorem test_assemble_field_too_large : assemble "FL_ENCODE 256, 0" = .error .outOfField := by rfl
theorem test_assemble_word_is_no_directive : assemble ".word 0" = .error .unknownMnemonic := by rfl
theorem test_assemble_operand_left_over : assemble "SERIALIZE 1" = .error .badOperands := by rfl

-- Small states

/-- The state after reset with these bytes written to IN and in_len set. -/
def loaded (bs : List Byte) : State :=
  { State.reset with inBuf := cellsFrom 0 bs, inLen := BitVec.ofNat 16 bs.length }

/-- The next state of an outcome, or the reset state where there is none. -/
def nextOf (o : Host.Outcome State Fault Refusal) : State :=
  match o with
  | .next t => t
  | .fault _ => State.reset
  | .refused _ => State.reset

/-- The state after a command. -/
def after (i : Instr) (s : State) : State := nextOf (exec i s)

/-- STATUS, RES0, RES1, OUT_LEN and ERR_SEEN as numbers. -/
def outputs (s : State) : List Nat :=
  [s.status.toNat, s.res0.toNat, s.res1.toNat, s.outLen.toNat, s.errSeen.toNat]

/-- OUT[0..OUT_LEN). -/
def outBytes (s : State) : List (Option Byte) := (List.range s.outLen.toNat).map s.out.read

/-- The bytes 00 01 ... of a given length. -/
def ramp (n : Nat) : List Byte := (List.range n).map (BitVec.ofNat 8)

/-- "Test" in ASCII. -/
def nameTest : List Byte := [0x54#8, 0x65#8, 0x73#8, 0x74#8]

/-- The start state of 2.2.1: from reset, `.in cid16 ++ "Test"`, `CONSTRUCT 1`. -/
def packetTest : State := after (.construct 1#16) (loaded (ramp 16 ++ nameTest))

-- FlagsLength (2.1)

theorem test_flEncode_root :
    outputs (after (.flEncode 7#8 638#16) State.reset) = [0, 0x727E, 0, 0, 0] := by decide
theorem test_flEncode_both_out_of_range :
    outputs (after (.flEncode 16#8 4096#16) State.reset) = [0x301, 0, 0, 0, 1] := by decide
theorem test_flDecode_root :
    outputs (after (.flDecode 0x727E#16) State.reset) = [0, 7, 638, 0, 0] := by decide
theorem test_flDecode_high_flags :
    outputs (after (.flDecode 0x8001#16) State.reset) = [0, 8, 1, 0, 0] := by decide

-- Accessors (2.2)

theorem test_layerInfo_frame :
    outputs (after (.layerInfo 1#8) packetTest) = [0x10000, 600, 7, 0, 0] := by decide
theorem test_layerInfo_three :
    outputs (after (.layerInfo 3#8) packetTest) = [0x10004, 0, 0, 0, 8] := by decide
theorem test_rootSplit_outputs :
    outputs (after .rootSplit packetTest) = [0x10000, 9, 0, 25, 0] := by decide
theorem test_rootSplit_bytes : outBytes (after .rootSplit packetTest) =
    (ramp 16 ++ [0x41#8, 0x53#8, 0x43#8, 0x2D#8, 0x45#8, 0x31#8, 0x2E#8, 0x31#8, 0x37#8]).map some := by
  decide
theorem test_frameSplit_outputs :
    outputs (after .frameSplit packetTest) = [0x10000, 0x64010001, 0, 4, 0] := by decide
theorem test_frameSplit_bytes :
    outBytes (after .frameSplit packetTest) = nameTest.map some := by decide
theorem test_options_word : [0x00#8, 0x40#8, 0x80#8, 0xC0#8, 0x06#8, 0x07#8, 0xFF#8].map optionsWord =
    [0#32, 0x140#32, 0x280#32, 0x3C0#32, 6#32, 7#32, 0x3FF#32] := by decide
theorem test_display_inner_nul :
    display Config.default.trimSet ([0x41#8, 0#8, 0x42#8] ++ List.replicate 61 0#8) =
      [0x41#8, 0x20#8, 0x42#8] := by decide
theorem test_display_both_ends :
    display Config.default.trimSet [0x20#8, 0x09#8, 0x48#8, 0x69#8, 0x0D#8, 0x0A#8] =
      [0x48#8, 0x69#8] := by decide
theorem test_setSequence_wraps :
    (after (.setSequence 0x1FF#24) packetTest).pkt.frame.sequenceNumber = 0xFF#8 := by decide
theorem test_setSequence_256 :
    outputs (after (.setSequence 0x100#24) packetTest) = [0x10000, 0, 0, 0, 0] := by decide
theorem test_dmpGetStartCode :
    outputs (after .dmpGetStartCode packetTest) = [0x10000, 0, 0, 0, 0] := by decide
theorem test_dmpGetValues_outputs :
    outputs (after .dmpGetValues packetTest) = [0x10000, 512, 0, 512, 0] := by decide
theorem test_readField_universe :
    outputs (after (.readField 0x17#8) packetTest) = [0x10000, 1, 0, 0, 0] := by decide
theorem test_readField_undefined : [0x06#8, 0x0F#8, 0x18#8, 0x27#8, 0xFF#8].all
    (fun fid => (after (.readField fid) packetTest).status.toNat = 0x10406) = true := by
  decide

-- Endianness converter (2.3)

theorem test_toNetwork_ramp : outBytes (after (.toNetwork 0#8) (loaded (ramp 38))) =
    (([1, 0, 3, 2] ++ List.range' 4 12 ++ [17, 16, 21, 20, 19, 18] ++ List.range' 22 16).map
      (fun n => some (BitVec.ofNat 8 n))) := by decide
theorem test_toNetwork_short :
    outputs (after (.toNetwork 0#8) (loaded (ramp 37))) = [0x303, 0, 0, 0, 4] := by decide
theorem test_toHost_ramp : outBytes (after (.toHost 1#8) (loaded (ramp 77))) =
    (([1, 0, 5, 4, 3, 2] ++ List.range' 6 65 ++ [72, 71, 73, 74, 76, 75]).map
      (fun n => some (BitVec.ofNat 8 n))) := by decide
theorem test_toHost_selector_before_length :
    outputs (after (.toHost 3#8) State.reset) = [4, 0, 0, 0, 8] := by decide

-- Packet operations (2.4)

theorem test_construct_image : (wireImage packetTest.pkt).take 48 =
    [0x00#8, 0x10#8, 0x00#8, 0x00#8, 0x41#8, 0x53#8, 0x43#8, 0x2D#8, 0x45#8, 0x31#8, 0x2E#8, 0x31#8,
      0x37#8, 0x00#8, 0x00#8, 0x00#8, 0x72#8, 0x7E#8, 0x00#8, 0x00#8, 0x00#8, 0x04#8] ++ ramp 16 ++
    [0x72#8, 0x58#8, 0x00#8, 0x00#8, 0x00#8, 0x02#8, 0x54#8, 0x65#8, 0x73#8, 0x74#8] := by
  decide
theorem test_construct_universe_first :
    outputs (after (.construct 0#16) (loaded (ramp 15))) = [0x401, 0, 0, 0, 1] := by decide
theorem test_update_values : ([0, 1, 2, 512].map ((after (.update 0xCC#8 3#8)
      { loaded (ramp 512) with pktValid := true }).pkt.dmp.propertyValues.toList[·]?)) =
    [0xCC#8, 0x00#8, 0x01#8, 0xFF#8].map some := by decide +kernel
theorem test_update_count : outputs (after (.update 0#8 2#8)
      { loaded (ramp 511) with pktValid := true }) = [0x10002, 0, 0, 0, 2] := by decide +kernel
theorem test_serialize_outputs :
    outputs (after .serialize packetTest) = [0x10000, 638, 0, 638, 0] := by decide
theorem test_serialize_bytes :
    (List.range' 108 17).map (after .serialize packetTest).out.read =
      [0x64#8, 0x00#8, 0x00#8, 0x01#8, 0x00#8, 0x00#8, 0x01#8, 0x72#8, 0x0B#8, 0x02#8, 0xA1#8, 0x00#8,
        0x00#8, 0x00#8, 0x01#8, 0x02#8, 0x01#8].map some := by decide
theorem test_serializeLayer_dmp :
    (List.range 10).map (after (.serializeLayer 2#8) packetTest).out.read =
      [0x72#8, 0x0B#8, 0x02#8, 0xA1#8, 0x00#8, 0x00#8, 0x00#8, 0x01#8, 0x02#8, 0x01#8].map some := by
  decide
theorem test_serializeLayer_selector_before_packet :
    outputs (after (.serializeLayer 5#8) State.reset) = [4, 0, 0, 0, 8] := by decide
theorem test_deserialize_short :
    outputs (after .deserialize { State.reset with inLen := 637#16 }) = [0x103, 0, 0, 0, 4] := by
  decide
theorem test_deserialize_ones :
    outputs (after .frameSplit (after .deserialize (loaded (List.replicate 638 0xFF#8)))) =
      [0x10000, 0xFFFFFFFF, 0x3FF, 64, 0] := by decide +kernel

-- The host and the step

theorem test_step_illegal_word :
    outputs (nextOf (step { State.reset with hostScript := [.issue 0#32] })) = [0x106, 0, 0, 0, 0x20] := by
  decide
theorem test_reset_keeps_in :
    (nextOf (perform .reset (after .rootSplit packetTest))).inAt 3 = 3#8 := by decide
theorem test_read_out : perform (.read (.outByte 638)) (after .serialize packetTest) =
    .fault .outReadPastLength := by rfl

-- Witnesses: concrete states and operands that meet the hypotheses of the statements together

/-- A state with a packet. -/
def valid : State := { State.reset with pktValid := true }

/-- The state after reset with in_len driven to n. -/
def withLen (n : Nat) : State := { State.reset with inLen := BitVec.ofNat 16 n }

/-- A state with a packet and in_len driven to n. -/
def validLen (n : Nat) : State := { valid with inLen := BitVec.ofNat 16 n }

theorem witness_DecodeAndEncodeAgree : (Instr.flEncode 7#8 638#16).wellFormed = true ∧
    decode 0x0107027E#32 = .ok (.flEncode 7#8 638#16) := by exact ⟨rfl, rfl⟩

theorem witness_IllegalOpcodeRaises : ∃ s : State, s.hostScript = .issue 0x35000000#32 :: [] ∧
    illegalOpcode 0x35 = true ∧ illegalOpcode 0x00 = true ∧ illegalOpcode 0x0F = true ∧
    illegalOpcode 0x34 = false ∧ illegalOpcode 0x01 = false :=
  ⟨{ State.reset with hostScript := [.issue 0x35000000#32] }, by decide⟩

theorem witness_ReservedBitRaises : ∃ s : State, s.hostScript = .issue 0x0201727E#32 :: [] ∧
    illegalOpcode 0x02 = false ∧ 0x0201727E#32 &&& reservedBitsOf 0x02 ≠ 0#32 ∧
    0x0200FFFF#32 &&& reservedBitsOf 0x02 = 0#32 :=
  ⟨{ State.reset with hostScript := [.issue 0x0201727E#32] }, by decide⟩

theorem witness_StepRunsDecodedCommand : ∃ s : State, s.hostScript = .issue 0x32000000#32 :: [] ∧
    decode 0x32000000#32 = .ok .serialize ∧ Instr.serialize.wellFormed = true :=
  ⟨{ State.reset with hostScript := [.issue 0x32000000#32] }, by decide⟩

theorem witness_FlEncodePacksOrRaises : (15#8).toNat ≤ 15 ∧ (4095#16).toNat ≤ 4095 ∧
    15 < (16#8).toNat ∧ 4095 < (4096#16).toNat := by decide

theorem witness_FlagsLengthRoundTrip : (15#8).toNat ≤ 15 ∧ (4095#16).toNat ≤ 4095 := by decide

theorem witness_LayerInfoReportsLengthAndFlags : 3 ≤ (3#8).toNat ∧ (2#8).toNat < 3 ∧
    State.reset.pktValid = false ∧ valid.pktValid = true ∧
    ((2#8).toNat = 2 ∧ (0#16) = valid.pkt.dmp.dmpFlagsLength) := by decide

theorem witness_packet_and_none : valid.pktValid = true ∧ State.reset.pktValid = false := by decide

theorem witness_AllNulDisplaysEmpty : Config.default.wellFormed = true := by decide

theorem witness_StartCodeIsIndexZero : valid.pktValid = true ∧
    valid.pkt.dmp.propertyValues.toList[0]? = some 0#8 := by decide

theorem witness_ReadFieldReturnsRegister : definedFieldId (0x27#8).toNat = false ∧
    definedFieldId (0x26#8).toNat = true ∧ valid.pktValid = true ∧
    (0x13#8, FieldValue.s8 0#8) ∈ fieldTable valid.pkt ∧
    (0x00#8, FieldValue.s16 0#16) ∈ fieldTable valid.pkt ∧
    (0x04#8, FieldValue.s32 0#32) ∈ fieldTable valid.pkt ∧
    (0x26#8, FieldValue.array (List.replicate 513 0#8)) ∈ fieldTable valid.pkt := by decide +kernel

theorem witness_ToNetworkConvertsLayer : (withLen 1025).cfg.inCap < (withLen 1025).inLen.toNat ∧
    (withLen 1024).inLen.toNat ≤ (withLen 1024).cfg.inCap ∧ 3 ≤ (3#8).toNat ∧
    (0#8, Layer.root, 0, 38) ∈ layerTable ∧ (withLen 37).inLen.toNat < 38 ∧
    38 ≤ (withLen 38).inLen.toNat := by decide

theorem witness_ToHostConvertsLayer : (withLen 1025).cfg.inCap < (withLen 1025).inLen.toNat ∧
    (withLen 1024).inLen.toNat ≤ (withLen 1024).cfg.inCap ∧ 3 ≤ (255#8).toNat ∧
    (2#8, Layer.dmp, 115, 523) ∈ layerTable ∧ (withLen 522).inLen.toNat < 523 ∧
    523 ≤ (withLen 523).inLen.toNat := by decide

theorem witness_SwapImgReversesSpans : (ramp 77).length = layerSize .frame ∧
    (75, 2) ∈ spanTable .frame ∧ 1 < 2 ∧
    ((spanTable .frame).all fun p => decide (74 < p.1) || decide (p.1 + p.2 ≤ 74)) = true := by
  decide

theorem witness_HostImageLaysOutFields :
    (Layer.frame, 75, leBytes 2 0) ∈ hostTable Packet.zero := by decide

theorem witness_SwappedHostImageIsWireImage : (2#8, Layer.dmp, 115, 523) ∈ layerTable := by decide

theorem witness_ConversionsAreMutualInverses : ∃ t,
    exec (.toNetwork 0#8) (loaded (ramp 38)) = .next t ∧
    (loaded (ramp 38)).inLen.toNat ≤ (loaded (ramp 38)).cfg.inCap ∧
    38 ≤ (loaded (ramp 38)).inLen.toNat ∧ (0#8, Layer.root, 0, 38) ∈ layerTable ∧
    ∀ k, k < 38 → t.out.read k = some ((loaded (swapImg .root (ramp 38))).inAt k) :=
  ⟨after (.toNetwork 0#8) (loaded (ramp 38)), rfl, by decide⟩

theorem witness_WireImageLaysOutFields : (113, beBytes 2 0) ∈ wireTable Packet.zero := by
  decide

theorem witness_ConstructBuildsPacket : (withLen 1025).cfg.inCap < (withLen 1025).inLen.toNat ∧
    (withLen 15).inLen.toNat ≤ (withLen 15).cfg.inCap ∧ (0#16).toNat < 1 ∧ 63999 < (64000#16).toNat ∧
    1 ≤ (1#16).toNat ∧ (63999#16).toNat ≤ 63999 ∧ (withLen 15).inLen.toNat < 16 ∧
    16 ≤ (withLen 16).inLen.toNat := by decide

theorem witness_UpdateReplacesValues : (withLen 1025).cfg.inCap < (withLen 1025).inLen.toNat ∧
    (withLen 512).inLen.toNat ≤ (withLen 512).cfg.inCap ∧ (withLen 512).pktValid = false ∧
    (validLen 511).pktValid = true ∧ (validLen 511).inLen.toNat ≠ 512 ∧
    (validLen 512).pktValid = true ∧ (validLen 512).inLen.toNat = 512 := by decide

theorem witness_SerializeLayerEmitsRegion : 3 ≤ (3#8).toNat ∧ (2#8).toNat < 3 ∧
    State.reset.pktValid = false ∧ valid.pktValid = true ∧
    (2#8, Layer.dmp, 115, 523) ∈ layerTable := by decide

theorem witness_DeserializeLoadsEveryField : (withLen 1025).cfg.inCap < (withLen 1025).inLen.toNat ∧
    (withLen 637).inLen.toNat ≤ (withLen 637).cfg.inCap ∧ (withLen 637).inLen.toNat < 638 ∧
    (withLen 638).inLen.toNat ≤ (withLen 638).cfg.inCap ∧ 638 ≤ (withLen 638).inLen.toNat ∧
    (113, beBytes 2 0) ∈ wireTable Packet.zero := by decide

/-- A host that copied the serialized zero packet into IN. -/
def zeroImage : State := loaded (wireImage valid.pkt)

/-- What was written to OUT and then copied to IN reads the same. -/
theorem read_copied (m : Memory) (bs : List Byte) (k : Nat) (h : k < bs.length) :
    (m.writeBlock 0 bs).read k = some ((Memory.read (cellsFrom 0 bs) k).getD (Config.inUnwritten k)) := by
  have e : Memory.read (cellsFrom 0 bs) k = bs[k]? := by
    rw [Memory.read, lookup_cellsFrom, if_pos (Nat.zero_le k), Nat.sub_zero]
  rw [Memory.read_writeBlock_zero, if_pos h, e, List.getElem?_eq_getElem h]
  rfl

theorem witness_SerializeThenDeserializeKeepsPacket : ∃ t, valid.pktValid = true ∧
    exec .serialize valid = .next t ∧ zeroImage.inLen.toNat = 638 ∧ 638 ≤ zeroImage.cfg.inCap ∧
    ∀ k, k < 638 → t.out.read k = some (zeroImage.inAt k) := by
  refine ⟨after .serialize valid, rfl, rfl, by decide +kernel, by decide +kernel, fun k hk => ?_⟩
  exact read_copied _ _ k (by rw [length_wireImage]; exact hk)

theorem witness_DeserializeThenSerializeKeepsBytes : zeroImage.inLen.toNat ≤ zeroImage.cfg.inCap ∧
    638 ≤ zeroImage.inLen.toNat := by decide +kernel

theorem witness_SuccessiveUpdatesDifferOnlyInValues : ∃ t u t' u',
    exec (.update 0#8 1#8) (validLen 512) = .next t ∧ exec .serialize t = .next u ∧
    exec (.update 0#8 2#8) t = .next t' ∧ exec .serialize t' = .next u' ∧
    (validLen 512).pktValid = true ∧ t.pktValid = true ∧ (validLen 512).inLen.toNat = 512 ∧
    t.inLen.toNat = 512 ∧ 512 ≤ (validLen 512).cfg.inCap ∧ 512 ≤ t.cfg.inCap :=
  ⟨after (.update 0#8 1#8) (validLen 512), _, after (.update 0#8 2#8) (after (.update 0#8 1#8) (validLen 512)),
    _, rfl, rfl, rfl, rfl, rfl, rfl, rfl, rfl, by decide, by decide⟩

theorem witness_ConstructedLengthsNest : (withLen 16).inLen.toNat ≤ (withLen 16).cfg.inCap ∧
    1 ≤ (1#16).toNat ∧ (63999#16).toNat ≤ 63999 ∧ 16 ≤ (withLen 16).inLen.toNat := by decide

theorem witness_UpdateThenGetValues : (validLen 512).inLen.toNat = 512 ∧
    512 ≤ (validLen 512).cfg.inCap ∧ (validLen 512).pktValid = true := by decide

theorem witness_FirstErrorIsReported :
    firstError 0x33000005#32 State.reset = some (4#8, 0#8) ∧
    firstError 0x31000001#32 State.reset = some (5#8, 0#8) ∧
    firstError 0x30000000#32 (withLen 15) = some (1#8, 4#8) ∧
    firstError 0x0200FFFF#32 State.reset = none := by decide

theorem witness_ErrorsArePrecise : ∃ t, runWord 0x32000000#32 State.reset = .next t ∧
    statusCode t.status ≠ 0#8 := ⟨after .serialize State.reset, rfl, by decide⟩

theorem witness_SuccessKeepsErrorsAndRest : ∃ t, exec (.flDecode 0xFFFF#16) State.reset = .next t ∧
    statusCode t.status = 0#8 := ⟨after (.flDecode 0xFFFF#16) State.reset, rfl, by decide⟩

theorem witness_NoPacketIsRaised : (withLen 1024).pktValid = false ∧ (2#8).toNat < 3 ∧
    definedFieldId (0x26#8).toNat = true ∧
    (withLen 1024).inLen.toNat ≤ (withLen 1024).cfg.inCap := by decide

theorem witness_FieldsAreWrittenByTheirCommands :
    (∃ t, exec .rootSplit State.reset = .next t ∧ statusCode t.status ≠ 0#8) ∧
    (∃ t, exec (.update 0#8 1#8) (validLen 512) = .next t ∧ statusCode t.status = 0#8) ∧
    (∃ t, exec (.setSequence 256#24) valid = .next t ∧ statusCode t.status = 0#8) ∧
    (∃ t, exec .serialize valid = .next t ∧ statusCode t.status = 0#8) :=
  ⟨⟨_, rfl, by decide⟩, ⟨after (.update 0#8 1#8) (validLen 512), rfl, by decide⟩,
    ⟨after (.setSequence 256#24) valid, rfl, by decide⟩,
    ⟨after .serialize valid, rfl, by decide⟩⟩

theorem witness_PacketStaysValidUntilReset : State.reset.pktValid = false ∧ valid.pktValid = true ∧
    (∃ u, perform (.setInLen 3#16) valid = .next u) ∧
    (∃ u, perform (.issue 0x32000000#32) valid = .next u) ∧
    ∃ t, runWord 0x30000001#32 (withLen 16) = .next t ∧ statusCode t.status = 0#8 ∧
      t.pktValid = true :=
  ⟨rfl, rfl, ⟨_, rfl⟩, ⟨after .serialize valid, rfl⟩, after (.construct 1#16) (withLen 16), rfl,
    by decide⟩

theorem witness_ErrorRecordIsSticky :
    (∃ t, runWord 0x00000000#32 State.reset = .next t ∧ statusCode t.status = 6#8) ∧
    (∃ t, runWord 0x0200FFFF#32 State.reset = .next t ∧ statusCode t.status = 0#8) ∧
    (∃ t, perform (.setInLen 3#16) State.reset = .next t) :=
  ⟨⟨_, rfl, by decide⟩, ⟨after (.flDecode 0xFFFF#16) State.reset, rfl, by decide⟩, ⟨_, rfl⟩⟩

theorem witness_CommandsDoNotReadStatus : ∃ t, runWord 0x32000000#32 valid = .next t :=
  ⟨after .serialize valid, rfl⟩

theorem witness_UnspecifiedRegistersAreNeverObserved : State.reset.pktValid = false := rfl

theorem witness_InBytesPastLengthAreNeverRead : ∀ k, k < (loaded (ramp 16)).inLen.toNat →
    (loaded (ramp 16)).inAt k = ({ loaded (ramp 16) with inBuf := cellsFrom 0 (ramp 17) } : State).inAt k := by
  decide

theorem witness_CommandsLeaveHostSideAlone : ∃ t, runWord 0xFFFFFFFF#32 State.reset = .next t :=
  ⟨_, rfl⟩

theorem witness_CommandsAreIdempotentOnPacket : ∃ t u, runWord 0x130001FF#32 valid = .next t ∧
    runWord 0x130001FF#32 t = .next u :=
  ⟨after (.setSequence 0x1FF#24) valid, after (.setSequence 0x1FF#24) (after (.setSequence 0x1FF#24) valid),
    rfl, rfl⟩

theorem witness_CommandSequencesComplete : ∃ s : State, s.hostScript =
    [0x30000001#32, 0x32000000#32].map HostAction.issue ++ [.reset] :=
  ⟨{ State.reset with hostScript := [.issue 0x30000001#32, .issue 0x32000000#32, .reset] }, rfl⟩

theorem witness_SendEmitsUpdatedPacket : ∃ s : State,
    s.hostScript = issueAll (expand (.send 0#8 1#8)) ++ [] ∧ s.inLen.toNat = 512 ∧
    512 ≤ s.cfg.inCap ∧ s.pktValid = true :=
  ⟨{ validLen 512 with hostScript := [.issue 0x31000001#32, .issue 0x32000000#32] }, by decide⟩

theorem witness_HostReadsHaveNoSideEffect : (∃ t, perform (.read .status) State.reset = .next t) ∧
    1023 < State.reset.cfg.inCap :=
  ⟨⟨_, rfl⟩, by decide⟩

theorem witness_OutPastLengthFaults : State.reset.outLen.toNat ≤ 0 := by decide

theorem witness_OutBelowLengthIsReadable : ∃ s : State, s.Inv ∧ 0 < s.outLen.toNat := by
  refine ⟨{ State.reset with out := [(0, 0#8)], outLen := 1#16 }, ?_, by decide⟩
  refine ⟨by decide, by decide, by decide, by decide, by decide, by decide, ?_, by decide, by decide,
    by decide, by decide, by decide⟩
  show ∀ i, i < 1 → _
  decide

theorem witness_HostWriteReachesOneByte : State.reset.cfg.inCap ≤ 1024 ∧
    1023 < State.reset.cfg.inCap := by decide

theorem witness_InDirectiveLoadsInput : ∃ s : State,
    inDirective [7#8] = .ok [.writeIn 0 7#8, .setInLen 1#16] ∧ ([7#8] : List Byte).length ≤ s.cfg.inCap ∧
    s.hostScript = [.writeIn 0 7#8, .setInLen 1#16] ++ [] :=
  ⟨{ State.reset with hostScript := [.writeIn 0 7#8, .setInLen 1#16] }, by rfl, by decide, rfl⟩

theorem witness_CodecWaitsForCommand : State.reset.hostScript = [] := rfl

theorem witness_StepKeepsInvariant : ∃ s t : State, s.Inv ∧ step s = .next t := by
  refine ⟨{ State.reset with hostScript := [.issue 0#32] }, _, ?_, rfl⟩
  refine ⟨by decide, by decide, by decide, by decide, by decide, by decide, ?_, by decide, by decide,
    by decide, by decide, by decide⟩
  intro i h
  exact absurd h (Nat.not_lt_zero i)

end Sys2Proof.Tests
end

section
/-! What the proofs about the architectural state lean on: one recorded error bit by bit, what the host
does when it neither issues a word nor resets, and what any word leaves unchanged. -/

namespace Sys2Proof.Machine

/-- Every code of R200 is a number from 1 to 6. -/
theorem errorCode_bounds (e : ErrorCode) : 1 ≤ (errorCode e).toNat ∧ (errorCode e).toNat ≤ 6 := by
  cases e <;> decide

theorem errorCode_ne_zero (e : ErrorCode) : errorCode e ≠ 0#8 := by cases e <;> decide

/-- Recording an error of CODE k sets bit k - 1 of ERR_SEEN and keeps every other bit (R35). -/
theorem getLsbD_recordError (seen : BitVec 8) (e : ErrorCode) (j : Nat) :
    (recordError seen e).getLsbD j =
      (seen.getLsbD j || decide (j + 1 = (errorCode e).toNat)) := by
  obtain ⟨h1, h6⟩ := errorCode_bounds e
  have hbit : (1#8 <<< ((errorCode e).toNat - 1)).getLsbD j =
      decide (j + 1 = (errorCode e).toNat) := by
    rw [← BitVec.twoPow_eq, BitVec.getLsbD_twoPow]
    grind
  rw [recordError, BitVec.getLsbD_or, hbit]

/-- No error is recorded in ERR_SEEN[7:6] (R35). -/
theorem errSeenTop_recordError {seen : BitVec 8} (h : seen.extractLsb' 6 2 = 0#2) (e : ErrorCode) :
    (recordError seen e).extractLsb' 6 2 = 0#2 := by
  obtain ⟨_, h6⟩ := errorCode_bounds e
  apply BitVec.eq_of_getLsbD_eq
  intro j hj
  have hseen : seen.getLsbD (6 + j) = false := by
    simpa [BitVec.getLsbD_extractLsb', hj] using congrArg (fun v => BitVec.getLsbD v j) h
  have hother : 6 + j + 1 ≠ (errorCode e).toNat := by omega
  simp [BitVec.getLsbD_extractLsb', getLsbD_recordError, hseen, hother]

/-- Only IN, in_len and what the host last read may differ, and IN stays in canonical form and within
IN_CAP. -/
def HostOnly (s t : State) : Prop :=
  ∃ m n d, t = { s with inBuf := m, inLen := n, hostData := d } ∧
    (s.inBuf.wf = true → m.wf = true) ∧
    (s.inBuf.within s.cfg.inCap = true → m.within s.cfg.inCap = true)

theorem hostWriteIn_hostOnly {i : Nat} {b : Byte} {s t : State} (h : hostWriteIn i b s = .next t) :
    HostOnly s t := by
  unfold hostWriteIn at h
  split at h
  next hi =>
    cases h
    exact ⟨s.inBuf.writeBlock i [b], _, _, rfl, fun hw => Memory.wf_writeBlock hw _ _,
      fun hw => Memory.within_writeBlock hw (by simpa using hi)⟩
  next => cases h

theorem hostRead_hostOnly {p : HostPort} {s t : State} (h : hostRead p s = .next t) :
    HostOnly s t := by
  unfold hostRead at h
  split at h
  next v _ => cases h; exact ⟨_, _, v, rfl, id, id⟩
  next => cases h

/-- A host action that answers is a word, the reset, or one that touches the host's side alone (R59). -/
theorem perform_cases {a : HostAction} {s t : State} (h : perform a s = .next t) :
    (∃ w, a = .issue w ∧ runWord w s = .next t) ∨ (a = .reset ∧ hostReset s = .next t) ∨
      ((∀ w, a ≠ .issue w) ∧ HostOnly s t) := by
  cases a with
  | writeIn i b => exact .inr (.inr ⟨nofun, hostWriteIn_hostOnly h⟩)
  | setInLen n => cases h; exact .inr (.inr ⟨nofun, _, n, _, rfl, id, id⟩)
  | issue w => exact .inl ⟨w, rfl, h⟩
  | read p => exact .inr (.inr ⟨nofun, hostRead_hostOnly h⟩)
  | reset => exact .inr (.inl ⟨rfl, h⟩)

/-- A word raises, or it is a command that answers: `runWord_result` at the state it reached. -/
theorem runWord_cases {w : Word} {s t : State} (h : runWord w s = .next t) :
    Raised s t ∨ ∃ i p v bs, decode w = .ok i ∧ packetEffect s i p v ∧ Answered s t p v bs := by
  obtain ⟨t', ht, hr⟩ := runWord_result w s
  rw [h] at ht
  cases ht
  exact hr

/-- A command that answers leaves a valid packet exactly where one was or where it loads one (R29). -/
theorem packetEffect_valid {s : State} {i : Instr} {p : Packet} {v : Bool}
    (h : packetEffect s i p v) :
    v = true ↔ s.pktValid = true ∨ (∃ u, i = .construct u) ∨ i = .deserialize := by
  cases i <;> obtain ⟨_, rfl⟩ := h <;> simp

theorem Raised.status_ne_zero {s t : State} (h : Raised s t) : statusCode t.status ≠ 0#8 := by
  obtain ⟨e, cause, rfl, _⟩ := h
  simpa using errorCode_ne_zero e

theorem Answered.status_eq_zero {s t : State} {p : Packet} {v : Bool} {bs : List Byte}
    (h : Answered s t p v bs) : statusCode t.status = 0#8 := by
  obtain ⟨m, r0, r1, rfl, _⟩ := h
  simp

theorem Raised.packet_eq {s t : State} (h : Raised s t) : t.pkt = s.pkt ∧ t.pktValid = s.pktValid := by
  obtain ⟨e, cause, rfl, _⟩ := h
  exact ⟨rfl, rfl⟩

theorem Answered.registers_eq {s t : State} {p : Packet} {v : Bool} {bs : List Byte}
    (h : Answered s t p v bs) : t.pkt = p ∧ t.pktValid = v ∧ t.errSeen = s.errSeen := by
  obtain ⟨m, r0, r1, rfl, _⟩ := h
  exact ⟨rfl, rfl, rfl⟩

/-- No word clears PKT_VALID (R29). -/
theorem runWord_keeps_valid {w : Word} {s t : State} (h : runWord w s = .next t)
    (hv : s.pktValid = true) : t.pktValid = true := by
  rcases runWord_cases h with hr | ⟨i, p, v, bs, _, he, ha⟩
  · rw [hr.packet_eq.2, hv]
  · rw [ha.registers_eq.2.1, packetEffect_valid he]
    exact .inl hv

/-- No word clears a bit of ERR_SEEN (R35). -/
theorem runWord_keeps_errors {w : Word} {s t : State} (h : runWord w s = .next t) :
    s.errSeen &&& t.errSeen = s.errSeen := by
  rcases runWord_cases h with ⟨e, cause, rfl, _⟩ | ⟨i, p, v, bs, _, _, ha⟩
  · exact and_recordError s.errSeen e
  · rw [ha.registers_eq.2.2, BitVec.and_self]

/-- A word leaves IN, in_len, the parameters and the host's script as they are (R51, R59). -/
theorem runWord_host_side {w : Word} {s t : State} (h : runWord w s = .next t) :
    t.inBuf = s.inBuf ∧ t.inLen = s.inLen ∧ t.cfg = s.cfg ∧ t.hostScript = s.hostScript := by
  rcases runWord_cases h with ⟨e, cause, rfl, _⟩ | ⟨i, p, v, bs, _, _, m, r0, r1, rfl, _⟩ <;>
    exact ⟨rfl, rfl, rfl, rfl⟩

/-- A word that the host issues next is what the step performs. -/
theorem step_issue {s : State} {w : Word} {rest : List HostAction}
    (h : s.hostScript = .issue w :: rest) :
    step s = runWord w { s with hostScript := rest } := by
  rw [step, State.nextAction, h]
  rfl

end Sys2Proof.Machine
end

section
/-! Every step keeps the invariant: raising and answering do, and so does each thing the host does. -/

namespace Sys2Proof.Machine

/-- The invariant does not look at the host's script. -/
theorem State.Inv.withScript {s : State} (h : s.Inv) (r : List HostAction) :
    ({ s with hostScript := r } : State).Inv := { h with }

/-- After the error step OUT_LEN is 0, so that nothing of OUT has to hold a value. -/
theorem Raised.inv {s t : State} (hr : Raised s t) (h : s.Inv) : t.Inv := by
  obtain ⟨e, cause, rfl, hlegal⟩ := hr
  have hbit : (errorCode e).toNat - 1 + 1 = (errorCode e).toNat :=
    Nat.sub_add_cancel (errorCode_bounds e).1
  exact { h with
    outLenLe := Nat.zero_le _
    outHeld := fun i hi => absurd hi (Nat.not_lt_zero i)
    validCopy := by simp
    statusRest := by simp
    statusLegal := by simpa using hlegal
    errSeenTop := errSeenTop_recordError h.errSeenTop e
    errorOutputs := fun _ => ⟨rfl, rfl, rfl, by simp [getLsbD_recordError, hbit]⟩ }

/-- After an answer OUT_LEN is the number of bytes answered, and OUT holds each of them. -/
theorem Answered.inv {s t : State} {p : Packet} {v : Bool} {bs : List Byte}
    (ha : Answered s t p v bs) (h : s.Inv) : t.Inv := by
  obtain ⟨m, r0, r1, rfl, hlen, hread, hwf, hwithin⟩ := ha
  have houtLen : (BitVec.ofNat 16 bs.length).toNat = bs.length := by
    rw [BitVec.toNat_ofNat]; omega
  exact { h with
    outWf := hwf h.outWf
    outWithin := hwithin h.outWithin
    outLenLe := by rw [State.respond_outLen, houtLen]; exact hlen
    outHeld := fun i hi => by
      rw [State.respond_outLen, houtLen] at hi
      simp [hread, hi]
    validCopy := by simp
    statusRest := by simp
    statusLegal := by simp [legalStatus]
    errorOutputs := by simp }

theorem HostOnly.inv {s t : State} (ht : HostOnly s t) (h : s.Inv) : t.Inv := by
  obtain ⟨m, n, d, rfl, hwf, hwithin⟩ := ht
  exact { h with inWf := hwf h.inWf, inWithin := hwithin h.inWithin }

/-- The reset values of R230 are legal ones. -/
theorem inv_reset : State.reset.Inv where
  cfgOk := by decide
  outWf := wf_reset.1
  outWithin := rfl
  inWf := wf_reset.2
  inWithin := rfl
  outLenLe := Nat.zero_le _
  outHeld := fun _ hi => absurd hi (Nat.not_lt_zero _)
  validCopy := by decide
  statusRest := by decide
  statusLegal := by decide
  errSeenTop := by decide
  errorOutputs := fun hc => absurd rfl hc

/-- A reset sets legal values and keeps IN and the parameters. -/
theorem hostReset_keeps_inv {s t : State} (ht : hostReset s = .next t) (h : s.Inv) : t.Inv := by
  cases ht
  exact { inv_reset with cfgOk := h.cfgOk, inWf := h.inWf, inWithin := h.inWithin }

theorem runWord_keeps_inv {w : Word} {s t : State} (ht : runWord w s = .next t) (h : s.Inv) :
    t.Inv := by
  rcases runWord_cases ht with hr | ⟨i, p, v, bs, _, _, ha⟩
  · exact hr.inv h
  · exact ha.inv h

theorem perform_keeps_inv {a : HostAction} {s t : State} (ht : perform a s = .next t) (h : s.Inv) :
    t.Inv := by
  rcases perform_cases ht with ⟨w, _, hw⟩ | ⟨_, hreset⟩ | ⟨_, hhost⟩
  · exact runWord_keeps_inv hw h
  · exact hostReset_keeps_inv hreset h
  · exact hhost.inv h

/-- Settles O60: a waiting codec stays as it is, and each action of the host keeps the invariant. -/
theorem stepKeepsInvariant : Obligations.StepKeepsInvariant := by
  intro s t h hstep
  unfold step State.nextAction at hstep
  cases hs : s.hostScript with
  | nil => rw [hs] at hstep; cases hstep; exact h
  | cons a rest => rw [hs] at hstep; exact perform_keeps_inv hstep (h.withScript rest)

end Sys2Proof.Machine
end

section
/-! Which words write the packet registers, PKT_VALID and ERR_SEEN. -/

namespace Sys2Proof.Machine

/-- Settles O42: a raise writes no field, and an answer writes what its `packetEffect` says. -/
theorem fieldsAreWrittenByTheirCommands : Obligations.FieldsAreWrittenByTheirCommands := by
  intro i s t h
  obtain ⟨t', ht, hr⟩ := exec_result i s
  rw [h] at ht
  cases ht
  rcases hr with hr | ⟨p, v, bs, he, ha⟩
  · simp [hr.packet_eq.1]
  · rw [ha.registers_eq.1]
    refine ⟨fun hc => absurd ha.status_eq_zero hc, ?_, ?_, ?_⟩
    · rintro sc seq rfl
      obtain ⟨rfl, _⟩ := he
      exact ⟨rfl, rfl, rfl⟩
    · rintro q rfl
      obtain ⟨rfl, _⟩ := he
      exact ⟨rfl, rfl, rfl⟩
    · intro hd hc hu hq
      cases i with
      | setSequence q => exact absurd rfl (hq q)
      | construct u => exact absurd rfl (hc u)
      | update sc seq => exact absurd rfl (hu sc seq)
      | deserialize => exact absurd rfl hd
      | _ => exact he.1

/-- A word sets PKT_VALID where it was 0 exactly by loading a packet (R29). -/
theorem runWord_sets_valid {w : Word} {s t : State} (h : runWord w s = .next t)
    (hv : s.pktValid = false) :
    t.pktValid = true ↔ statusCode t.status = 0#8 ∧
      ((∃ u, decode w = .ok (.construct u)) ∨ decode w = .ok .deserialize) := by
  rcases runWord_cases h with hr | ⟨i, p, v, bs, hd, he, ha⟩
  · simp [hr.packet_eq.2, hv, hr.status_ne_zero]
  · simp [ha.registers_eq.2.1, packetEffect_valid he, hv, ha.status_eq_zero, hd]

/-- STATUS[16] shows PKT_VALID after every word (R33). -/
theorem runWord_shows_valid {w : Word} {s t : State} (h : runWord w s = .next t) :
    statusValid t.status = t.pktValid := by
  rcases runWord_cases h with ⟨e, cause, rfl, _⟩ | ⟨i, p, v, bs, _, _, m, r0, r1, rfl, _⟩ <;> simp

/-- Settles O43: what the words do to PKT_VALID, and that no action but a word or reset touches it. -/
theorem packetStaysValidUntilReset : Obligations.PacketStaysValidUntilReset := by
  refine ⟨fun w s t h => ⟨runWord_keeps_valid h, runWord_sets_valid h, runWord_shows_valid h⟩, ?_,
    fun s => ⟨_, rfl, rfl⟩, rfl⟩
  intro a s t hreset h
  rcases perform_cases h with ⟨w, rfl, hw⟩ | ⟨rfl, _⟩ | ⟨_, m, n, d, rfl, _⟩
  · exact ⟨runWord_keeps_valid hw, fun hn => absurd rfl (hn w)⟩
  · exact absurd rfl hreset
  · exact ⟨id, fun _ => rfl⟩

/-- After CODE 0 no bit of ERR_SEEN has changed (R35). -/
theorem runWord_errSeen_of_ok {w : Word} {s t : State} (h : runWord w s = .next t)
    (hc : statusCode t.status = 0#8) : t.errSeen = s.errSeen := by
  rcases runWord_cases h with hr | ⟨i, p, v, bs, _, _, ha⟩
  · exact absurd hc hr.status_ne_zero
  · exact ha.registers_eq.2.2

/-- After CODE k ≠ 0, k is at most 6 and ERR_SEEN has gained bit k - 1 (R35). -/
theorem runWord_errSeen_of_error {w : Word} {s t : State} (h : runWord w s = .next t)
    (hc : statusCode t.status ≠ 0#8) :
    (statusCode t.status).toNat ≤ 6 ∧ ∀ j, t.errSeen.getLsbD j =
      (s.errSeen.getLsbD j || decide (j + 1 = (statusCode t.status).toNat)) := by
  rcases runWord_cases h with ⟨e, cause, rfl, _⟩ | ⟨i, p, v, bs, _, _, ha⟩
  · rw [State.raise_status, statusCode_statusWord]
    exact ⟨(errorCode_bounds e).2, getLsbD_recordError s.errSeen e⟩
  · exact absurd ha.status_eq_zero hc

/-- Settles O44: what the words do to ERR_SEEN, and that no action but a word or reset touches it. -/
theorem errorRecordIsSticky : Obligations.ErrorRecordIsSticky := by
  refine ⟨fun w s t h => ⟨runWord_errSeen_of_ok h, fun hc => ?_⟩, ?_, fun s => ⟨_, rfl, rfl⟩, rfl⟩
  · obtain ⟨hle, hbits⟩ := runWord_errSeen_of_error h hc
    exact ⟨hle, fun j _ => hbits j⟩
  · intro a s t hreset h
    rcases perform_cases h with ⟨w, _, hw⟩ | ⟨rfl, _⟩ | ⟨_, m, n, d, rfl, _⟩
    · exact runWord_keeps_errors hw
    · exact absurd rfl hreset
    · exact BitVec.and_self

end Sys2Proof.Machine
end

section
/-! No command reads STATUS, RES0, RES1, OUT_LEN or ERR_SEEN (10_state.md R36). -/

namespace Sys2Proof.Machine

/-- The state with other values in every output register. -/
def State.withOutputs (s : State) (st r0 r1 : BitVec 32) (n : BitVec 16) (e : BitVec 8) : State :=
  { s with status := st, res0 := r0, res1 := r1, outLen := n, errSeen := e }

/-- Where `o` answers, `o'` answers the same, but with the bits that `o` added to `seen` added to `e`. -/
def SameButErrors (seen e : BitVec 8) (o o' : Host.Outcome State Fault Refusal) : Prop :=
  ∀ t, o = .next t → ∃ set : BitVec 8, t.errSeen = seen ||| set ∧
    o' = .next { t with errSeen := e ||| set }

section
variable {st r0 r1 : BitVec 32} {n : BitVec 16} {e : BitVec 8}

/-- The error step overwrites every output register and adds one bit to ERR_SEEN. -/
theorem SameButErrors.raised (s : State) (err : ErrorCode) (cause : BitVec 8) :
    SameButErrors s.errSeen e (answer (s.raise err cause))
      (answer ((s.withOutputs st r0 r1 n e).raise err cause)) := by
  intro t h
  cases h
  exact ⟨1#8 <<< ((errorCode err).toNat - 1), rfl, rfl⟩

/-- The success step overwrites every output register and adds no bit to ERR_SEEN. -/
theorem SameButErrors.responded (s : State) (q0 q1 : BitVec 32) (k : Nat) :
    SameButErrors s.errSeen e (answer (s.respond q0 q1 k))
      (answer ((s.withOutputs st r0 r1 n e).respond q0 q1 k)) := by
  intro t h
  cases h
  exact ⟨0#8, by simp, by simp [answer, State.respond, State.withOutputs]⟩

theorem SameButErrors.ite {seen : BitVec 8} {c : Prop} [Decidable c]
    {a b a' b' : Host.Outcome State Fault Refusal} (ha : SameButErrors seen e a a')
    (hb : SameButErrors seen e b b') :
    SameButErrors seen e (if c then a else b) (if c then a' else b') := by
  split
  · exact ha
  · exact hb

/-- A field read answers, whatever the output registers held. -/
theorem SameButErrors.respondField (s : State) (v : FieldValue) :
    SameButErrors s.errSeen e (answer (s.respondField v))
      (answer ((s.withOutputs st r0 r1 n e).respondField v)) := by
  cases v with
  | s8 | s16 | s32 => exact .responded s _ _ _
  | array bs => exact .responded (s.memWrite 0 bs) _ _ _

/-- The conversion of IN reads no output register. -/
theorem convertLayer_withOutputs (sel : BitVec 8) (s : State) :
    SameButErrors s.errSeen e (convertLayer sel s)
      (convertLayer sel (s.withOutputs st r0 r1 n e)) := by
  unfold convertLayer
  refine .ite (.raised s _ _) ?_
  cases layerOfSel sel with
  | none => exact .raised s _ _
  | some l => exact .ite (.raised s _ _) (.responded (s.memWrite 0 _) _ _ _)

/-- No command reads an output register (R36). -/
theorem exec_withOutputs (i : Instr) (s : State) :
    SameButErrors s.errSeen e (exec i s) (exec i (s.withOutputs st r0 r1 n e)) := by
  cases i with
  | flEncode | dmpGetStartCode => exact .ite (.raised s _ _) (.responded s _ _ _)
  | flDecode => exact .responded s _ _ _
  | layerInfo sel =>
    simp only [exec, execLayerInfo]
    cases layerOfSel sel with
    | none => exact .raised s _ _
    | some l => exact .ite (.raised s _ _) (.responded s _ _ _)
  | rootSplit => exact .ite (.raised s _ _) (.responded ((s.memWrite 0 _).memWrite 16 _) _ _ _)
  | frameSplit | dmpGetValues | serialize =>
    exact .ite (.raised s _ _) (.responded (s.memWrite 0 _) _ _ _)
  | setSequence v => exact .ite (.raised s _ _) (.responded (s.setPacket _) _ _ _)
  | readField fid =>
    simp only [exec, execReadField]
    cases fieldOfId fid with
    | none => exact .raised s _ _
    | some f => exact .ite (.raised s _ _) (.respondField s _)
  | toNetwork sel | toHost sel => exact convertLayer_withOutputs sel s
  | construct u =>
    exact .ite (.raised s _ _) (.ite (.raised s _ _) (.ite (.raised s _ _)
      (.responded (s.setPacket _).setValid _ _ _)))
  | update sc seq =>
    exact .ite (.raised s _ _) (.ite (.raised s _ _) (.ite (.raised s _ _)
      (.responded (s.setPacket _) _ _ _)))
  | serializeLayer sel =>
    simp only [exec, execSerializeLayer]
    cases layerOfSel sel with
    | none => exact .raised s _ _
    | some l => exact .ite (.raised s _ _) (.responded (s.memWrite 0 _) _ _ _)
  | deserialize =>
    exact .ite (.raised s _ _) (.ite (.raised s _ _)
      (.responded (s.setPacket _).setValid _ _ _))

/-- No word reads an output register (R36). -/
theorem runWord_withOutputs (w : Word) (s : State) :
    SameButErrors s.errSeen e (runWord w s) (runWord w (s.withOutputs st r0 r1 n e)) := by
  unfold runWord
  cases decode w with
  | ok i => exact exec_withOutputs i s
  | error d => exact .raised s _ _

end

/-- Settles O45, by the case split over the commands in `exec_withOutputs`. -/
theorem commandsDoNotReadStatus : Obligations.CommandsDoNotReadStatus :=
  fun w s t _ _ _ _ _ h => runWord_withOutputs w s t h

end Sys2Proof.Machine
end

section
/-! What the host's script runs: a list of words, and one encoded command (log 6). -/

namespace Sys2Proof.Machine

/-- A run whose first step answers is the rest of the run from there. -/
theorem core_run_succ {s t : State} (k : Nat) (h : step s = .next t) :
    core.run (k + 1) s = core.run k t := by
  have hcore : core.step s = .next t := h
  simp only [Host.Core.run, hcore]

/-- What a word keeps, as one relation that holds along a list of words (R29, R35, R51). -/
def Preserved (s t : State) : Prop :=
  t.inBuf = s.inBuf ∧ t.inLen = s.inLen ∧ t.cfg = s.cfg ∧
    (s.pktValid = true → t.pktValid = true) ∧ s.errSeen &&& t.errSeen = s.errSeen

theorem Preserved.refl (s : State) : Preserved s s := ⟨rfl, rfl, rfl, id, BitVec.and_self⟩

theorem Preserved.trans {s t u : State} (hst : Preserved s t) (htu : Preserved t u) :
    Preserved s u := by
  obtain ⟨hin, hlen, hcfg, hvalid, herr⟩ := hst
  obtain ⟨hin', hlen', hcfg', hvalid', herr'⟩ := htu
  refine ⟨hin'.trans hin, hlen'.trans hlen, hcfg'.trans hcfg, hvalid' ∘ hvalid, ?_⟩
  calc s.errSeen &&& u.errSeen
      = s.errSeen &&& (t.errSeen &&& u.errSeen) := by rw [← BitVec.and_assoc, herr]
    _ = s.errSeen := by rw [herr', herr]

theorem runWord_preserved {w : Word} {s t : State} (h : runWord w s = .next t) : Preserved s t := by
  obtain ⟨hin, hlen, hcfg, _⟩ := runWord_host_side h
  exact ⟨hin, hlen, hcfg, runWord_keeps_valid h, runWord_keeps_errors h⟩

/-- One step per word performs a list of words at the head of the script, in order (R31, R64). -/
theorem run_words (ws : List Word) (s : State) (rest : List HostAction)
    (hs : s.hostScript = ws.map HostAction.issue ++ rest) :
    ∃ t, runWords ws { s with hostScript := rest } = .next t ∧ core.run ws.length s = .next t ∧
      t.hostScript = rest ∧ Preserved s t := by
  induction ws generalizing s with
  | nil =>
    have hself : { s with hostScript := rest } = s := by rw [← show s.hostScript = rest from hs]
    exact ⟨s, by rw [hself, runWords_nil], rfl, hs, .refl s⟩
  | cons w ws ih =>
    obtain ⟨u, hu, _⟩ := runWord_result w { s with hostScript := ws.map HostAction.issue ++ rest }
    obtain ⟨_, _, _, hscript⟩ := runWord_host_side hu
    have hsu := runWord_preserved hu
    obtain ⟨t, hwords, hrun, htrest, hut⟩ := ih u hscript
    refine ⟨t, ?_, ?_, htrest, Preserved.trans (s := s) hsu hut⟩
    · exact (runWords_cons ws (runWord_script rest hu)).trans hwords
    · exact (core_run_succ ws.length ((step_issue hs).trans hu)).trans hrun

/-- Settles O50, by the induction on the words in `run_words`. -/
theorem commandSequencesComplete : Obligations.CommandSequencesComplete := by
  intro ws s rest hs
  obtain ⟨t, hwords, hrun, hrest, hin, hlen, hcfg, hvalid, herr⟩ := run_words ws s rest hs
  exact ⟨t, hwords, hrun, hrest, hin, hlen, hcfg, hvalid, herr⟩

/-- Every command decodes from its word: its opcode's row reads its operands back (R81 to R93). -/
theorem decode_encode (i : Instr) : decode (encode i) = .ok i := by
  cases i with
  | rootSplit | frameSplit | dmpGetStartCode | dmpGetValues | serialize | deserialize => rfl
  | flEncode f l =>
    exact decode_of_row (opcodeOf_word16 _ f l) rfl (Laws.EncodeLayout.flEncode f l).2
      (congrArg₂ Instr.flEncode (flg8_word16 _ f l) (len16_word16 _ f l))
  | flDecode w =>
    exact decode_of_row (opcodeOf_word16 _ _ w) rfl (Laws.EncodeLayout.flDecode w).2
      (congrArg Instr.flDecode (w16_word16 _ _ w))
  | layerInfo sel =>
    exact decode_of_row (opcodeOf_word8 _ _ sel) rfl (Laws.EncodeLayout.layerInfo sel).2
      (congrArg Instr.layerInfo (sel8_word8 _ _ sel))
  | setSequence v =>
    exact decode_of_row (opcodeOf_word24 _ v) rfl (Laws.EncodeLayout.setSequence v).2
      (congrArg Instr.setSequence (v24_word24 _ v))
  | readField fid =>
    exact decode_of_row (opcodeOf_word8 _ _ fid) rfl (Laws.EncodeLayout.readField fid).2
      (congrArg Instr.readField (sel8_word8 _ _ fid))
  | toNetwork sel =>
    exact decode_of_row (opcodeOf_word8 _ _ sel) rfl (Laws.EncodeLayout.toNetwork sel).2
      (congrArg Instr.toNetwork (sel8_word8 _ _ sel))
  | toHost sel =>
    exact decode_of_row (opcodeOf_word8 _ _ sel) rfl (Laws.EncodeLayout.toHost sel).2
      (congrArg Instr.toHost (sel8_word8 _ _ sel))
  | construct u =>
    exact decode_of_row (opcodeOf_word16 _ _ u) rfl (Laws.EncodeLayout.construct u).2
      (congrArg Instr.construct (w16_word16 _ _ u))
  | update sc seq =>
    exact decode_of_row (opcodeOf_word88 _ _ sc seq) rfl (Laws.EncodeLayout.update sc seq).2
      (congrArg₂ Instr.update (sc8_word88 _ _ sc seq) (seq8_word88 _ _ sc seq))
  | serializeLayer sel =>
    exact decode_of_row (opcodeOf_word8 _ _ sel) rfl (Laws.EncodeLayout.serializeLayer sel).2
      (congrArg Instr.serializeLayer (sel8_word8 _ _ sel))

/-- Settles O6: the script's word decodes to the command, and taking it off leaves the state. -/
theorem issuedCommandRunsNext : Obligations.IssuedCommandRunsNext := by
  intro i s
  have hword : BitVec.ofNat 32 ((encode i).toNat % 2 ^ 32) = encode i := by
    apply BitVec.eq_of_toNat_eq
    rw [BitVec.toNat_ofNat, Nat.mod_mod, Nat.mod_eq_of_lt (encode i).isLt]
  have hscript : (s.withFetchWord 32 (encode i).toNat).hostScript =
      .issue (encode i) :: s.hostScript := by
    rw [State.withFetchWord, hword]
  calc step (s.withFetchWord 32 (encode i).toNat)
      = runWord (encode i) s := step_issue hscript
    _ = exec i s := by rw [runWord, decode_encode]

end Sys2Proof.Machine
end

section
/-! Words and the host's side of the block: which bytes of IN a word can depend on, what a word leaves to
the host, and what the same word does when it is issued again (20_memory.md R51, R59, R60). -/

namespace Sys2Proof.Machine

/-- IN reads alike in both states below the in_len of the first. -/
def AgreeBelowInLen (s t : State) : Prop := ∀ k, k < s.inLen.toNat → s.inAt k = t.inAt k

/-- Wherever `o` answers, `o'` answers the same but for `m` as its IN. -/
def SameButIn (m : Memory) (o o' : Host.Outcome State Fault Refusal) : Prop :=
  ∀ t, o = .next t → o' = .next { t with inBuf := m }

theorem SameButIn.answer {m : Memory} (t : State) :
    SameButIn m (answer t) (answer { t with inBuf := m }) := by
  intro u h
  cases h
  rfl

/-- The second branch may use that the check of the first did not apply. -/
theorem SameButIn.ite {m : Memory} {c : Prop} [Decidable c]
    {a b a' b' : Host.Outcome State Fault Refusal} (ha : SameButIn m a a')
    (hb : ¬c → SameButIn m b b') : SameButIn m (if c then a else b) (if c then a' else b') := by
  by_cases hc : c
  · rw [if_pos hc, if_pos hc]
    exact ha
  · rw [if_neg hc, if_neg hc]
    exact hb hc

section
variable {s : State} {m : Memory}

/-- An operand that ends at or before in_len is the same from both INs. -/
theorem AgreeBelowInLen.memRead_eq {t : State} (h : AgreeBelowInLen s t) {a n : Nat}
    (hn : a + n ≤ s.inLen.toNat) : t.memRead a n = s.memRead a n :=
  memRead_congr fun k _ => (h (a + k) (by omega)).symm

/-- The conversion takes its image only where in_len covers the layer. -/
theorem convertLayer_withIn (sel : BitVec 8) (h : AgreeBelowInLen s { s with inBuf := m }) :
    SameButIn m (convertLayer sel s) (convertLayer sel { s with inBuf := m }) := by
  unfold convertLayer
  refine .ite (.answer _) fun _ => ?_
  cases layerOfSel sel with
  | none => exact .answer _
  | some l =>
    refine .ite (.answer _) fun hlen => ?_
    have himage : State.layerOperand { s with inBuf := m } l = s.layerOperand l :=
      h.memRead_eq (by omega)
    rw [himage]
    exact .answer _

/-- CONSTRUCT takes its operands only where in_len covers the component id; the name ends at in_len. -/
theorem execConstruct_withIn (u : BitVec 16) (h : AgreeBelowInLen s { s with inBuf := m }) :
    SameButIn m (execConstruct u s) (execConstruct u { s with inBuf := m }) := by
  refine .ite (.answer _) fun _ => .ite (.answer _) fun _ => .ite (.answer _) fun hlen => ?_
  have hcid : State.cidOperand { s with inBuf := m } = s.cidOperand := h.memRead_eq (by omega)
  have hname : State.nameOperand { s with inBuf := m } = s.nameOperand :=
    h.memRead_eq (n := s.inLen.toNat - cidLen) (by omega)
  rw [hcid, hname]
  exact .answer _

/-- UPDATE takes its slot values only where in_len is their number. -/
theorem execUpdate_withIn (sc seq : BitVec 8) (h : AgreeBelowInLen s { s with inBuf := m }) :
    SameButIn m (execUpdate sc seq s) (execUpdate sc seq { s with inBuf := m }) := by
  refine .ite (.answer _) fun _ => .ite (.answer _) fun _ => .ite (.answer _) fun hlen => ?_
  have hvalues : State.valuesOperand { s with inBuf := m } = s.valuesOperand :=
    h.memRead_eq (by omega)
  rw [hvalues]
  exact .answer _

/-- DESERIALIZE takes its image only where in_len covers the packet. -/
theorem execDeserialize_withIn (h : AgreeBelowInLen s { s with inBuf := m }) :
    SameButIn m (execDeserialize s) (execDeserialize { s with inBuf := m }) := by
  refine .ite (.answer _) fun _ => .ite (.answer _) fun hlen => ?_
  have himage : State.packetOperand { s with inBuf := m } = s.packetOperand :=
    h.memRead_eq (by omega)
  rw [himage]
  exact .answer _

/-- No command depends on IN at or past in_len, and the commands without an operand in IN do not depend
on IN at all (R51). -/
theorem exec_withIn (i : Instr) (h : AgreeBelowInLen s { s with inBuf := m }) :
    SameButIn m (exec i s) (exec i { s with inBuf := m }) := by
  cases i with
  | flEncode | rootSplit | frameSplit | setSequence | dmpGetStartCode | dmpGetValues | serialize =>
    exact .ite (.answer _) fun _ => .answer _
  | flDecode => exact .answer _
  | layerInfo sel | serializeLayer sel =>
    simp only [exec, execLayerInfo, execSerializeLayer]
    cases layerOfSel sel with
    | none => exact .answer _
    | some l => exact .ite (.answer _) fun _ => .answer _
  | readField fid =>
    simp only [exec, execReadField]
    cases fieldOfId fid with
    | none => exact .answer _
    | some f =>
      refine .ite (.answer _) fun _ => ?_
      cases s.pkt.get f <;> exact .answer _
  | toNetwork sel | toHost sel => exact convertLayer_withIn sel h
  | construct u => exact execConstruct_withIn u h
  | update sc seq => exact execUpdate_withIn sc seq h
  | deserialize => exact execDeserialize_withIn h

/-- No word depends on IN at or past in_len (R51). -/
theorem runWord_withIn (w : Word) (h : AgreeBelowInLen s { s with inBuf := m }) :
    SameButIn m (runWord w s) (runWord w { s with inBuf := m }) := by
  unfold runWord
  cases decode w with
  | ok i => exact exec_withIn i h
  | error e => exact .answer _

end

/-- Settles O47: every word answers, by `exec_withIn` it answers alike from both INs, and it keeps IN. -/
theorem inBytesPastLengthAreNeverRead : Obligations.InBytesPastLengthAreNeverRead := by
  intro w s m h
  obtain ⟨t, ht, _⟩ := runWord_result w s
  obtain ⟨hin, _⟩ := runWord_host_side ht
  exact ⟨t, ht, hin, runWord_withIn w h t ht⟩

/-- A word does not touch what the last host read returned (log 7). -/
theorem runWord_hostData {w : Word} {s t : State} (h : runWord w s = .next t) :
    t.hostData = s.hostData := by
  rcases runWord_cases h with ⟨e, cause, rfl, _⟩ | ⟨i, p, v, bs, _, _, m, r0, r1, rfl, _⟩
  · exact State.raise_hostData s e cause
  · rfl

/-- Settles O48: neither the error step nor an answer writes a field of the host's side. -/
theorem commandsLeaveHostSideAlone : Obligations.CommandsLeaveHostSideAlone := by
  intro w s t h
  obtain ⟨hin, hlen, hcfg, hscript⟩ := runWord_host_side h
  exact ⟨hin, hlen, hcfg, hscript, runWord_hostData h⟩

theorem memRead_of_inBuf_eq {s t : State} (hin : t.inBuf = s.inBuf) (a n : Nat) :
    t.memRead a n = s.memRead a n :=
  memRead_congr fun k _ => by rw [State.inAt, State.inAt, hin]

/-- The effect of a command on the packet it has just left, with the same IN, is that packet: what it
writes depends on its operands alone. -/
theorem packetEffect_again {s t : State} {i : Instr} {p p' : Packet} {v v' : Bool}
    (hin : t.inBuf = s.inBuf) (hlen : t.inLen = s.inLen) (hpkt : t.pkt = p)
    (h : packetEffect s i p v) (h' : packetEffect t i p' v') : p' = p := by
  have hread : ∀ a n, t.memRead a n = s.memRead a n := memRead_of_inBuf_eq hin
  cases i with
  | setSequence q =>
    obtain ⟨rfl, _⟩ := h
    obtain ⟨rfl, _⟩ := h'
    rw [hpkt]
    rfl
  | construct u =>
    obtain ⟨rfl, _⟩ := h
    obtain ⟨rfl, _⟩ := h'
    simp only [State.cidOperand, State.nameOperand, hread, hlen]
  | update sc seq =>
    obtain ⟨rfl, _⟩ := h
    obtain ⟨rfl, _⟩ := h'
    simp only [State.valuesOperand, hread, hpkt]
    rfl
  | deserialize =>
    obtain ⟨rfl, _⟩ := h
    obtain ⟨rfl, _⟩ := h'
    simp only [State.packetOperand, hread]
  | _ => exact h'.1.trans hpkt

/-- A word that raised raises again and leaves the same packet: its checks read no output register
(R36), and nothing else has changed. -/
theorem Raised.packet_again {w : Word} {s t u : State} (hr : Raised s t)
    (ht : runWord w s = .next t) (hu : runWord w t = .next u) : u.pkt = t.pkt := by
  obtain ⟨e, cause, rfl, _⟩ := hr
  obtain ⟨set, _, hagain⟩ := runWord_withOutputs w s _ ht
  cases hu.symm.trans hagain
  rfl

/-- Settles O49: a raise repeats, and an answer's packet effect has nothing left to change. -/
theorem commandsAreIdempotentOnPacket : Obligations.CommandsAreIdempotentOnPacket := by
  intro w s t u ht hu
  obtain ⟨hin, hlen, _⟩ := runWord_host_side ht
  rcases runWord_cases ht with hr | ⟨i, p, v, bs, hi, he, ha⟩
  · exact hr.packet_again ht hu
  · rcases runWord_cases hu with hr' | ⟨i', p', v', bs', hi', he', ha'⟩
    · exact hr'.packet_eq.1
    · obtain rfl : i = i' := Except.ok.inj (hi.symm.trans hi')
      have hpkt : t.pkt = p := ha.registers_eq.1
      rw [ha'.registers_eq.1, hpkt]
      exact packetEffect_again hin hlen hpkt he he'

end Sys2Proof.Machine
end

section
/-! The host's own accesses to the block: a write of one byte of IN, and the reads
(20_memory.md R50 to R52 and R60; logs 7, 9, 10 and 15). -/

namespace Sys2Proof.Machine

/-- One byte written to IN is the byte there, and every other byte is as before. -/
theorem inAt_writeByte (s : State) (i j : Nat) (b : Byte) :
    ({ s with inBuf := s.inBuf.writeBlock i [b] } : State).inAt j =
      if j = i then b else s.inAt j := by
  by_cases hj : j = i
  · subst hj
    simp [State.inAt, Memory.read_writeBlock]
  · have hout : ¬(i ≤ j ∧ j < i + [b].length) := by simp; omega
    simp only [State.inAt, Memory.read_writeBlock, if_neg hout, if_neg hj]

/-- Settles O55: the two branches of the bounds check, the one below IN_CAP by `inAt_writeByte`. -/
theorem hostWriteReachesOneByte : Obligations.HostWriteReachesOneByte := by
  intro i b s
  constructor
  · intro hi
    exact if_neg (Nat.not_lt.mpr hi)
  · intro hi
    exact ⟨_, if_pos hi, fun j => inAt_writeByte s i j b, rfl⟩

theorem perform_read_ok {p : HostPort} {s : State} {v : BitVec 32}
    (h : hostReadValue p s = .ok v) : perform (.read p) s = .next { s with hostData := v } := by
  simp only [perform, hostRead, h]

theorem perform_read_error {p : HostPort} {s : State} {f : Fault}
    (h : hostReadValue p s = .error f) : perform (.read p) s = .fault f := by
  simp only [perform, hostRead, h]

/-- A host read that answers has a value, and puts it where the host keeps it (log 7). -/
theorem perform_read_next {p : HostPort} {s t : State} (h : perform (.read p) s = .next t) :
    ∃ v, hostReadValue p s = .ok v ∧ t = { s with hostData := v } := by
  cases hv : hostReadValue p s with
  | ok v =>
    rw [perform_read_ok hv] at h
    cases h
    exact ⟨v, rfl, rfl⟩
  | error f =>
    rw [perform_read_error hv] at h
    cases h

/-- No read gives what an earlier read returned. -/
theorem hostReadValue_withData (p : HostPort) (s : State) (v : BitVec 32) :
    hostReadValue p { s with hostData := v } = hostReadValue p s := by
  cases p <;> rfl

theorem hostReadValue_inByte {i : Nat} {s : State} (h : i < s.cfg.inCap) :
    hostReadValue (.inByte i) s = .ok ((s.inAt i).setWidth 32) := if_pos h

theorem hostReadValue_outByte {i : Nat} {s : State} {b : Byte} (h : i < s.outLen.toNat)
    (hb : s.out.read i = some b) : hostReadValue (.outByte i) s = .ok (b.setWidth 32) := by
  simp only [hostReadValue, if_pos h, hb]

/-- Past OUT_LEN a byte of OUT has no value, whatever OUT holds there (log 10). -/
theorem hostReadValue_outByte_past {i : Nat} {s : State} (h : s.outLen.toNat ≤ i) :
    hostReadValue (.outByte i) s = .error .outReadPastLength := if_neg (Nat.not_lt.mpr h)

/-- Settles O52: a read leaves its value with the host alone, and no read looks at that value. -/
theorem hostReadsHaveNoSideEffect : Obligations.HostReadsHaveNoSideEffect := by
  constructor
  · intro p s t h
    obtain ⟨v, hv, rfl⟩ := perform_read_next h
    exact ⟨rfl, perform_read_ok ((hostReadValue_withData p s v).trans hv)⟩
  · intro s
    exact ⟨perform_read_ok rfl, perform_read_ok rfl, perform_read_ok rfl, perform_read_ok rfl,
      perform_read_ok rfl, fun i hi => perform_read_ok (hostReadValue_inByte hi)⟩

/-- Settles O53: the read has no value past OUT_LEN. -/
theorem outPastLengthFaults : Obligations.OutPastLengthFaults :=
  fun _ _ h => perform_read_error (hostReadValue_outByte_past h)

/-- Settles O54: the invariant says that the byte is held, so the read gives it. -/
theorem outBelowLengthIsReadable : Obligations.OutBelowLengthIsReadable := by
  intro i s hinv hi
  obtain ⟨b, hb⟩ := Option.isSome_iff_exists.mp (hinv.outHeld i hi)
  exact ⟨b, hb, perform_read_ok (hostReadValue_outByte hi hb)⟩

end Sys2Proof.Machine
end

section
/-! The decoder from the word's side: a word is its fields side by side, so that a word which decodes
is the word its command encodes to; and which words are no command (30_encoding.md R80 to R93, R97). -/

namespace Sys2Proof.Machine

section
variable {w : Word} {o : BitVec 8}

/-- A word of format V is its two fields (R86). -/
theorem word_eq_v (ho : opcodeOf w = o) : o ++ v24 w = w := by
  subst ho
  exact (BitVec.extractLsb'_append_extractLsb'_eq_extractLsb' (by rfl)).trans
    BitVec.extractLsb'_eq_self

/-- A word of format FL is its three fields (R83). -/
theorem word_eq_fl (ho : opcodeOf w = o) : o ++ flg8 w ++ len16 w = w := by
  subst ho
  unfold opcodeOf flg8 len16
  rw [BitVec.extractLsb'_append_extractLsb'_eq_extractLsb' (by rfl),
    BitVec.extractLsb'_append_extractLsb'_eq_extractLsb' (by rfl)]
  exact BitVec.extractLsb'_eq_self

/-- A word of format A with its reserved bits clear is its opcode (R82). -/
theorem word_eq_a (ho : opcodeOf w = o) (hm : w &&& reservedMask .a = 0#32) :
    o ++ 0x000000#24 = w := by
  have hv : v24 w = 0#24 := field_eq_zero_of_mask hm (by decide)
  rw [← hv]
  exact word_eq_v ho

/-- A word of format W with its reserved bits clear is its opcode and W16 (R84). -/
theorem word_eq_w (ho : opcodeOf w = o) (hm : w &&& reservedMask .w = 0#32) :
    o ++ 0x00#8 ++ w16 w = w := by
  have hf : flg8 w = 0#8 := field_eq_zero_of_mask hm (by decide)
  rw [← hf]
  exact word_eq_fl ho

/-- A word of format U with its reserved bits clear is its opcode, SC8 and SEQ8 (R85). -/
theorem word_eq_u (ho : opcodeOf w = o) (hm : w &&& reservedMask .u = 0#32) :
    o ++ 0x00#8 ++ sc8 w ++ seq8 w = w := by
  have hf : w.extractLsb' 16 8 = 0#8 := field_eq_zero_of_mask hm (by decide)
  rw [← hf, ← ho]
  exact append_be4 w

/-- A word of format S with its reserved bits clear is its opcode and SEL8 (R87). -/
theorem word_eq_s (ho : opcodeOf w = o) (hm : w &&& reservedMask .s = 0#32) :
    o ++ 0x0000#16 ++ sel8 w = w := by
  have hf : w.extractLsb' 8 16 = 0#16 := field_eq_zero_of_mask hm (by decide)
  rw [← hf, ← ho]
  unfold opcodeOf sel8
  rw [BitVec.extractLsb'_append_extractLsb'_eq_extractLsb' (by rfl),
    BitVec.extractLsb'_append_extractLsb'_eq_extractLsb' (by rfl)]
  exact BitVec.extractLsb'_eq_self

theorem decode_of_no_row (h : opcodeRow (opcodeOf w).toNat = none) :
    decode w = .error .illegalOpcode := by
  rw [decode, h]

theorem decode_of_reserved {fmt : Format} {build : Word → Instr}
    (h : opcodeRow (opcodeOf w).toNat = some (fmt, build)) (hm : w &&& reservedMask fmt ≠ 0#32) :
    decode w = .error .reservedBits := by
  rw [decode, h]
  exact if_pos hm

/-- A word that decodes has a row, its reserved bits are clear, and the row builds the command. -/
theorem row_of_decode_ok {i : Instr} (h : decode w = .ok i) :
    ∃ fmt build, opcodeRow (opcodeOf w).toNat = some (fmt, build) ∧
      w &&& reservedMask fmt = 0#32 ∧ build w = i := by
  cases hr : opcodeRow (opcodeOf w).toNat with
  | none => rw [decode_of_no_row hr] at h; cases h
  | some r =>
    obtain ⟨fmt, build⟩ := r
    by_cases hm : w &&& reservedMask fmt = 0#32
    · rw [decode_of_row rfl hr hm rfl] at h
      exact ⟨fmt, build, rfl, hm, Except.ok.inj h⟩
    · rw [decode_of_reserved hr hm] at h; cases h

/-- A word that decodes is the word its command encodes to: one case per row of the map, each by the
fields of the row's format. -/
theorem encode_of_decode_ok {i : Instr} (h : decode w = .ok i) : encode i = w := by
  obtain ⟨fmt, build, hrow, hm, rfl⟩ := row_of_decode_ok h
  rcases opcodeRow_some hrow with ⟨ho, hr⟩ | ⟨ho, hr⟩ | ⟨ho, hr⟩ | ⟨ho, hr⟩ | ⟨ho, hr⟩ | ⟨ho, hr⟩ |
    ⟨ho, hr⟩ | ⟨ho, hr⟩ | ⟨ho, hr⟩ | ⟨ho, hr⟩ | ⟨ho, hr⟩ | ⟨ho, hr⟩ | ⟨ho, hr⟩ | ⟨ho, hr⟩ |
    ⟨ho, hr⟩ | ⟨ho, hr⟩ <;> cases hr
  · exact word_eq_fl (BitVec.eq_of_toNat_eq ho)
  · exact word_eq_w (BitVec.eq_of_toNat_eq ho) hm
  · exact word_eq_s (BitVec.eq_of_toNat_eq ho) hm
  · exact word_eq_a (BitVec.eq_of_toNat_eq ho) hm
  · exact word_eq_a (BitVec.eq_of_toNat_eq ho) hm
  · exact word_eq_v (BitVec.eq_of_toNat_eq ho)
  · exact word_eq_a (BitVec.eq_of_toNat_eq ho) hm
  · exact word_eq_a (BitVec.eq_of_toNat_eq ho) hm
  · exact word_eq_s (BitVec.eq_of_toNat_eq ho) hm
  · exact word_eq_s (BitVec.eq_of_toNat_eq ho) hm
  · exact word_eq_s (BitVec.eq_of_toNat_eq ho) hm
  · exact word_eq_w (BitVec.eq_of_toNat_eq ho) hm
  · exact word_eq_u (BitVec.eq_of_toNat_eq ho) hm
  · exact word_eq_a (BitVec.eq_of_toNat_eq ho) hm
  · exact word_eq_s (BitVec.eq_of_toNat_eq ho) hm
  · exact word_eq_a (BitVec.eq_of_toNat_eq ho) hm

end

/-- Settles O1: `decode_encode` one way, `encode_of_decode_ok` the other. -/
theorem decodeAndEncodeAgree : Obligations.DecodeAndEncodeAgree :=
  ⟨fun i _ => decode_encode i, fun _ _ => encode_of_decode_ok⟩

/-- The ranges of R90 are the numbers of no row of the map: they hold every number that is none of the
sixteen, and none of those. -/
theorem illegalOpcode_iff (n : Nat) : illegalOpcode n = true ↔ opcodeRow n = none := by
  unfold opcodeRow
  split
  case h_17 =>
    refine iff_of_true ?_ rfl
    simp only [illegalOpcode, Bool.or_eq_true, Bool.and_eq_true, decide_eq_true_eq, imp_false] at *
    omega
  all_goals exact iff_of_false (by decide) nofun

/-- The reserved bits restated by opcode are those of the row's format (R91). -/
theorem reservedBitsOf_of_row {n : Nat} {fmt : Format} {build : Word → Instr}
    (h : opcodeRow n = some (fmt, build)) : reservedBitsOf n = reservedMask fmt := by
  unfold opcodeRow at h
  split at h <;> cases h <;> rfl

/-- An opcode outside R90's ranges has a row, with the reserved bits of R91. -/
theorem row_of_legal {n : Nat} (h : illegalOpcode n = false) :
    ∃ fmt build, opcodeRow n = some (fmt, build) ∧ reservedBitsOf n = reservedMask fmt := by
  cases hrow : opcodeRow n with
  | none => rw [(illegalOpcode_iff n).mpr hrow] at h; cases h
  | some r => exact ⟨r.1, r.2, rfl, reservedBitsOf_of_row hrow⟩

/-- Issuing a word that does not decode is one error step with the decoder's cause (R90, R91,
R205). -/
theorem step_of_decode_error {w : Word} {e : DecodeError} {s : State} {rest : List HostAction}
    (hs : s.hostScript = .issue w :: rest) (hd : decode w = .error e) :
    step s = .next (afterError { s with hostScript := rest } 6#8 (decodeCause e)) := by
  rw [step_issue hs, runWord, hd]
  rfl

/-- Settles O3: a word of such an opcode has no row, and the decoder finds a row for every other. -/
theorem illegalOpcodeRaises : Obligations.IllegalOpcodeRaises := by
  intro w s rest hs
  constructor
  · intro hill
    have hrow := (illegalOpcode_iff _).mp hill
    exact step_of_decode_error (e := .illegalOpcode) hs (decode_of_no_row hrow)
  · intro hlegal
    obtain ⟨fmt, build, hrow, _⟩ := row_of_legal hlegal
    by_cases hm : w &&& reservedMask fmt = 0#32
    · rw [decode_of_row rfl hrow hm rfl]
      exact nofun
    · rw [decode_of_reserved hrow hm]
      exact nofun

/-- Settles O4: `row_of_legal` gives the word's row, and the row's mask decides. -/
theorem reservedBitRaises : Obligations.ReservedBitRaises := by
  intro w s rest hs hlegal
  obtain ⟨fmt, build, hrow, hmask⟩ := row_of_legal hlegal
  rw [hmask]
  exact ⟨fun hm => step_of_decode_error (e := .reservedBits) hs (decode_of_reserved hrow hm),
    fun hm => ⟨build w, decode_of_row rfl hrow hm rfl⟩⟩

/-- Settles O5: the step performs the word, and the word is its command. -/
theorem stepRunsDecodedCommand : Obligations.StepRunsDecodedCommand := by
  intro w i s rest hs hd _
  rw [step_issue hs, runWord, hd]

/-- A line that assembles to one command is an issue of a word that decodes to that command. -/
theorem assembles_and_decodes {line : String} {i : Instr} (h : assemble line = .ok (issueAll [i])) :
    assemble line = .ok [.issue (encode i)] ∧ decode (encode i) = .ok i :=
  ⟨h, decode_encode i⟩

/-- Settles O2: the assembler evaluates on each line, and each word is the command's encoding. -/
theorem exampleWordsDecode : Obligations.ExampleWordsDecode :=
  ⟨assembles_and_decodes (i := .flEncode 7#8 638#16) rfl,
    assembles_and_decodes (i := .flDecode 0x727E#16) rfl,
    assembles_and_decodes (i := .construct 5#16) rfl,
    assembles_and_decodes (i := .update 0#8 1#8) rfl,
    assembles_and_decodes (i := .setSequence 0x1FF#24) rfl,
    assembles_and_decodes (i := .layerInfo 1#8) rfl,
    assembles_and_decodes (i := .readField 0x17#8) rfl,
    assembles_and_decodes (i := .serialize) rfl⟩

end Sys2Proof.Machine
end

section
/-! SEND: what UPDATE changes of a packet's wire image, and that SERIALIZE leaves that image in OUT
(30_encoding.md R96, 43_packet.md R172, R178, R182). -/

namespace Sys2Proof.Machine

/-- The wire bytes before the sequence number: offsets 0 to 110 (R172). -/
def wireBeforeSequence (p : Packet) : List Byte :=
  be2 p.root.preambleSize ++ be2 p.root.postambleSize ++ p.root.acnPacketIdentifier.toList
    ++ be2 p.root.rootFlagsLength ++ be4 p.root.rootVector ++ p.root.componentId.toList
    ++ be2 p.frame.frameFlagsLength ++ be4 p.frame.frameVector ++ p.frame.sourceName.toList
    ++ [p.frame.priority] ++ be2 p.frame.reserved

/-- The wire bytes after the sequence number and before the property values: offsets 112 to 124
(R172). -/
def wireAfterSequence (p : Packet) : List Byte :=
  [p.frame.options] ++ be2 p.frame.dmxUniverse
    ++ be2 p.dmp.dmpFlagsLength ++ [p.dmp.dmpVector] ++ [p.dmp.addressTypeAndDataType]
    ++ be2 p.dmp.firstPropertyAddress ++ be2 p.dmp.addressIncrement ++ be2 p.dmp.propertyValueCount

theorem length_wireBeforeSequence (p : Packet) : (wireBeforeSequence p).length = 111 := by
  simp [wireBeforeSequence]

theorem length_wireAfterSequence (p : Packet) : (wireAfterSequence p).length = 13 := by
  simp [wireAfterSequence]

/-- The wire image around the two fields that UPDATE writes. (By `delta`, for Lean's equation lemma of
so long a concatenation is too costly.) -/
theorem wireImage_eq (p : Packet) :
    wireImage p = wireBeforeSequence p ++
      ([p.frame.sequenceNumber] ++ (wireAfterSequence p ++ p.dmp.propertyValues.toList)) := by
  delta wireImage wireBeforeSequence wireAfterSequence
  simp only [List.append_assoc]

/-- The sequence number is the byte at offset 111 (R54). -/
theorem getElem?_wireImage_sequence (p : Packet) :
    (wireImage p)[111]? = some p.frame.sequenceNumber := by
  have hlen := length_wireBeforeSequence p
  rw [wireImage_eq, List.getElem?_append_right (by omega), hlen]
  rfl

/-- The bytes from offset 112 on are the rest of the image. -/
theorem getElem?_wireImage_rest (p : Packet) (k : Nat) :
    (wireImage p)[112 + k]? = (wireAfterSequence p ++ p.dmp.propertyValues.toList)[k]? := by
  have hlen := length_wireBeforeSequence p
  rw [wireImage_eq, List.getElem?_append_right (by omega), hlen,
    show 112 + k - 111 = k + 1 by omega, List.singleton_append, List.getElem?_cons_succ]

/-- The property values are the bytes from offset 125 on (R54). -/
theorem getElem?_wireImage_values (p : Packet) (k : Nat) :
    (wireImage p)[125 + k]? = p.dmp.propertyValues.toList[k]? := by
  have hlen := length_wireAfterSequence p
  rw [show 125 + k = 112 + (13 + k) by omega, getElem?_wireImage_rest,
    List.getElem?_append_right (by omega), hlen, Nat.add_sub_cancel_left]

/-- Below offset 125, and but for the sequence number at 111, the image is the two stretches around
it. -/
theorem getElem?_wireImage_congr {p q : Packet}
    (hbefore : wireBeforeSequence q = wireBeforeSequence p)
    (hafter : wireAfterSequence q = wireAfterSequence p) {k : Nat} (hk : k < 125) (hne : k ≠ 111) :
    (wireImage q)[k]? = (wireImage p)[k]? := by
  by_cases hlt : k < 111
  · have hlen := length_wireBeforeSequence p
    rw [wireImage_eq, wireImage_eq, hbefore, List.getElem?_append_left (by omega),
      List.getElem?_append_left (by omega)]
  · obtain ⟨j, rfl⟩ := Nat.exists_eq_add_of_le (show 112 ≤ k by omega)
    have hlen := length_wireAfterSequence p
    rw [getElem?_wireImage_rest, getElem?_wireImage_rest, hafter,
      List.getElem?_append_left (by omega), List.getElem?_append_left (by omega)]

/-- The packet that UPDATE stores (R178). -/
def State.updatedPacket (s : State) (sc seq : BitVec 8) : Packet :=
  (s.pkt.withValues sc s.valuesOperand).withSequence seq

/-- UPDATE's value block is the start code and then the 512 slots as they are: nothing is padded. -/
theorem updatedPacket_values (s : State) (sc seq : BitVec 8) :
    (s.updatedPacket sc seq).dmp.propertyValues.toList = sc :: s.valuesOperand := by
  have hlen : (sc :: s.valuesOperand).length = 513 := by simp [State.valuesOperand, dmxSlots]
  simp [State.updatedPacket, padTo_of_length hlen]

/-- Below offset 125 UPDATE changes the image at 111 alone. -/
theorem getElem?_wireImage_updatedPacket (s : State) (sc seq : BitVec 8) {k : Nat} (hk : k < 125)
    (hne : k ≠ 111) : (wireImage (s.updatedPacket sc seq))[k]? = (wireImage s.pkt)[k]? := by
  have hbefore : wireBeforeSequence (s.updatedPacket sc seq) = wireBeforeSequence s.pkt := rfl
  have hafter : wireAfterSequence (s.updatedPacket sc seq) = wireAfterSequence s.pkt := rfl
  exact getElem?_wireImage_congr hbefore hafter hk hne

theorem getElem?_valuesOperand {s : State} {k : Nat} (hk : k < 512) :
    s.valuesOperand[k]? = some (s.inAt k) := by
  have hslot : k < dmxSlots := hk
  rw [State.valuesOperand, getElem?_memRead, if_pos hslot, Nat.zero_add]

/-- UPDATE with a packet and 512 values in IN stores its packet (R178). -/
theorem execUpdate_ok (sc seq : BitVec 8) {s : State} (hlen : s.inLen.toNat = 512)
    (hcap : 512 ≤ s.cfg.inCap) (hv : s.pktValid = true) :
    exec (.update sc seq) s =
      .next ((s.setPacket (s.updatedPacket sc seq)).respond 0#32 0#32 0) := by
  have hfits : s.inTooLong = false := by simp [State.inTooLong, hlen, hcap]
  have hcount : s.inLen.toNat = dmxSlots := hlen
  simp [exec, execUpdate, hfits, hv, hcount, answer, State.updatedPacket]

/-- SERIALIZE of a packet leaves its wire image in OUT (R182). -/
theorem execSerialize_ok {s : State} (hv : s.pktValid = true) :
    exec .serialize s = .next ((s.memWrite 0 (wireImage s.pkt)).respond 638#32 0#32 638) := by
  simp [exec, execSerialize, hv, answer, pktLen]

/-- The word of a command performs that command. -/
theorem runWord_encode (i : Instr) (s : State) : runWord (encode i) s = exec i s := by
  rw [runWord, decode_encode]

/-- The two words of SEND, performed in turn (R96). -/
theorem runWords_send (sc seq : BitVec 8) {s : State} (hlen : s.inLen.toNat = 512)
    (hcap : 512 ≤ s.cfg.inCap) (hv : s.pktValid = true) :
    ∃ u, runWords ((expand (.send sc seq)).map encode) s = .next u ∧ u.outLen = 638#16 ∧
      outIs s u (wireImage (s.updatedPacket sc seq)) := by
  have hupdate := (runWord_encode _ _).trans (execUpdate_ok sc seq hlen hcap hv)
  have hserialize := (runWord_encode _ _).trans
    (execSerialize_ok (s := (s.setPacket (s.updatedPacket sc seq)).respond 0#32 0#32 0) hv)
  exact ⟨_, (runWords_cons _ hupdate).trans (runWords_cons _ hserialize), rfl, outIs_memWrite _ _⟩

/-- Settles O51: after SEND's two words OUT is the image of the updated packet, which differs from
the image before in the sequence number and the values. -/
theorem sendEmitsUpdatedPacket : Obligations.SendEmitsUpdatedPacket := by
  intro sc seq s rest hs hlen hcap hv
  obtain ⟨u, hwords, hrun, hrest, _⟩ := run_words ((expand (.send sc seq)).map encode) s rest hs
  obtain ⟨u', hsend, houtLen, hout⟩ :=
    runWords_send sc seq (s := { s with hostScript := rest }) hlen hcap hv
  obtain rfl : u = u' := Host.Outcome.next.inj (hwords.symm.trans hsend)
  have hread : ∀ k, k < 638 → u.out.read k = (wireImage (s.updatedPacket sc seq))[k]? :=
    fun k hk => (hout k).trans (if_pos (by rw [length_wireImage]; exact hk))
  have hvalues : ∀ k, k < 513 → u.out.read (125 + k) = (sc :: s.valuesOperand)[k]? := fun k hk => by
    rw [hread _ (by omega), getElem?_wireImage_values, updatedPacket_values]
  refine ⟨u, hrun, hrest, by rw [houtLen]; rfl, ?_, hvalues 0 (by omega), fun k hk => ?_,
    fun k hk hne => ?_⟩
  · exact (hread 111 (by omega)).trans (getElem?_wireImage_sequence _)
  · have hslot := hvalues (k + 1) (by omega)
    rw [List.getElem?_cons_succ, getElem?_valuesOperand hk] at hslot
    rw [← hslot, show 125 + (k + 1) = 126 + k by omega]
  · exact (hread k (by omega)).trans (getElem?_wireImage_updatedPacket s sc seq hk hne)

end Sys2Proof.Machine
end

section
/-! The `.in` directive: one write per byte of its list, then in_len (30_encoding.md R95, 20_memory.md
R51, log 14). -/

namespace Sys2Proof.Machine

/-- The host's next action is what the step performs. -/
theorem step_next_action {s : State} {a : HostAction} {rest : List HostAction}
    (h : s.hostScript = a :: rest) : step s = perform a { s with hostScript := rest } := by
  rw [step, State.nextAction, h]

/-- A directive is its list's writes and in_len, where the length fits the port. -/
theorem inDirective_ok {bs : List Byte} {acts : List HostAction} (h : inDirective bs = .ok acts) :
    bs.length < 65536 ∧ acts = writeActions 0 bs ++ [.setInLen (BitVec.ofNat 16 bs.length)] := by
  unfold inDirective operandOf at h
  split at h
  next hlen => exact ⟨hlen, (Except.ok.inj h).symm⟩
  next => cases h

theorem length_writeActions (i : Nat) (bs : List Byte) :
    (writeActions i bs).length = bs.length := by
  induction bs generalizing i with
  | nil => rfl
  | cons b bs ih => rw [writeActions, List.length_cons, List.length_cons, ih]

/-- The list from index i on, over what IN held. -/
def listAt (i : Nat) (bs : List Byte) (old : Nat → Byte) (k : Nat) : Byte :=
  if i ≤ k then bs.getD (k - i) (old k) else old k

/-- A first byte at i and the others from i + 1 on are the list from i on. -/
theorem listAt_cons (i : Nat) (b : Byte) (bs : List Byte) (old : Nat → Byte) (k : Nat) :
    listAt (i + 1) bs (fun j => if j = i then b else old j) k = listAt i (b :: bs) old k := by
  unfold listAt
  rcases Nat.lt_trichotomy k i with hlt | rfl | hgt
  · rw [if_neg (by omega), if_neg (by omega)]
    exact if_neg (by omega)
  · simp
  · obtain ⟨j, rfl⟩ := Nat.exists_eq_add_of_lt hgt
    have hne : i + j + 1 ≠ i := by omega
    rw [if_pos (by omega), if_pos (by omega), show i + j + 1 - (i + 1) = j by omega,
      show i + j + 1 - i = j + 1 by omega, List.getD_cons_succ]
    simp only [if_neg hne]

/-- Writes from index i on, inside IN, and then in_len: one step each, and IN holds the list from i
on. -/
theorem run_writeActions (bs : List Byte) (i : Nat) (n : BitVec 16) (rest : List HostAction)
    (s : State) (hs : s.hostScript = writeActions i bs ++ .setInLen n :: rest)
    (hcap : i + bs.length ≤ s.cfg.inCap) :
    ∃ t, core.run (bs.length + 1) s = .next t ∧ (∀ k, t.inAt k = listAt i bs s.inAt k) ∧
      t = { s with hostScript := rest, inBuf := t.inBuf, inLen := n } := by
  induction bs generalizing i s with
  | nil => exact ⟨_, core_run_succ 0 (step_next_action hs), fun k => (ite_self _).symm, rfl⟩
  | cons b bs ih =>
    rw [List.length_cons] at hcap
    obtain ⟨u, hwrite, hbyte, hu⟩ := (hostWriteReachesOneByte i b
      { s with hostScript := writeActions (i + 1) bs ++ .setInLen n :: rest }).2
      (show i < s.cfg.inCap by omega)
    have hcfg : u.cfg = s.cfg := by rw [hu]
    obtain ⟨t, hrun, hin, ht⟩ := ih (i + 1) u (congrArg State.hostScript hu) (by rw [hcfg]; omega)
    refine ⟨t, (core_run_succ _ ((step_next_action hs).trans hwrite)).trans hrun, fun k => ?_, ?_⟩
    · rw [hin, funext hbyte]
      exact listAt_cons i b bs s.inAt k
    · rw [ht, hu]

/-- Settles O56: a directive's actions are those of `run_writeActions` from index 0. -/
theorem inDirectiveLoadsInput : Obligations.InDirectiveLoadsInput := by
  intro bs acts rest s hacts hcap hs
  obtain ⟨hlen, rfl⟩ := inDirective_ok hacts
  obtain ⟨t, hrun, hin, hframe⟩ := run_writeActions bs 0 (BitVec.ofNat 16 bs.length) rest s
    (by rw [hs, List.append_assoc]; rfl) (by omega)
  have hport : t.inLen = BitVec.ofNat 16 bs.length := congrArg State.inLen hframe
  refine ⟨t, ?_, ?_, hin, ?_⟩
  · rw [List.length_append, length_writeActions]
    exact hrun
  · rw [hport, BitVec.toNat_ofNat, Nat.mod_eq_of_lt (by omega)]
  · rw [hport]
    exact hframe

end Sys2Proof.Machine
end

section
/-! The FlagsLength bit-packer: FL_ENCODE and FL_DECODE with their results by division, and that each
undoes the other (40_bitfield.md R110 to R113). -/

namespace Sys2Proof.Machine

/-- A nonzero cause mask of FL_ENCODE is raised as it is (R110, R205). -/
theorem exec_flEncode_of_cause {f : BitVec 8} {l : BitVec 16} {c : BitVec 8}
    (hcause : flEncodeCause f l = c) (hc : c ≠ 0#8) (s : State) :
    exec (.flEncode f l) s = .next (afterError s 1#8 c) := by
  subst hcause
  exact if_pos hc

/-- FL_ENCODE of parts in range gives the packed word (R110). -/
theorem exec_flEncode_of_le {f : BitVec 8} {l : BitVec 16} (hf : f.toNat ≤ 15)
    (hl : l.toNat ≤ 4095) (s : State) :
    exec (.flEncode f l) s =
      .next (afterOk s (BitVec.ofNat 32 (f.toNat * 4096 + l.toNat)) 0#32 0) := by
  have hcause : flEncodeCause f l = 0#8 := by
    simp [flEncodeCause, Nat.not_lt.mpr hf, Nat.not_lt.mpr hl]
  have hwide : (f.setWidth 16).toNat = f.toNat := BitVec.toNat_setWidth_of_le (by decide)
  have hword : (packFlagsLength (f.setWidth 16) l).setWidth 32 =
      BitVec.ofNat 32 (f.toNat * 4096 + l.toNat) := by
    rw [← BitVec.ofNat_toNat, toNat_packFlagsLength _ _ (hwide.trans_le hf) hl, hwide]
  rw [← hword]
  exact if_neg (not_not_intro hcause)

/-- FL_DECODE gives the quotient and the remainder by 4096 (R111). -/
theorem exec_flDecode (w : BitVec 16) (s : State) :
    exec (.flDecode w) s =
      .next (afterOk s (BitVec.ofNat 32 (w.toNat / 4096)) (BitVec.ofNat 32 (w.toNat % 4096)) 0) := by
  rw [← toNat_flagsOf, ← toNat_lengthOf, BitVec.ofNat_toNat, BitVec.ofNat_toNat]
  rfl

/-- Settles O7: one case per pair of operands in or out of range, each by its cause mask. -/
theorem flEncodePacksOrRaises : Obligations.FlEncodePacksOrRaises := by
  intro f l s
  refine ⟨decode_encode (.flEncode f l), fun hf hl => exec_flEncode_of_le hf hl s,
    fun hf hl => ?_, fun hf hl => ?_, fun hf hl => ?_⟩
  · have hcause : flEncodeCause f l = causeFlags := by
      simp [flEncodeCause, hf, Nat.not_lt.mpr hl]
    exact exec_flEncode_of_cause hcause (by decide) s
  · have hcause : flEncodeCause f l = causeLength := by
      simp [flEncodeCause, hl, Nat.not_lt.mpr hf]
    exact exec_flEncode_of_cause hcause (by decide) s
  · have hcause : flEncodeCause f l = causeFlags ||| causeLength := by
      simp [flEncodeCause, hf, hl]
    exact exec_flEncode_of_cause hcause (by decide) s

/-- Settles O8: the word is FL_DECODE's encoding, and `exec_flDecode` is its step. -/
theorem flDecodeUnpacks : Obligations.FlDecodeUnpacks := fun w s =>
  ⟨decode_encode (.flDecode w), exec_flDecode w s⟩

/-- The host passes a result register on as a narrower operand: a number that fits it is kept. -/
theorem toNat_setWidth_result {n k : Nat} (hn : n < 2 ^ k) (hk : k ≤ 32) :
    ((BitVec.ofNat 32 n).setWidth k).toNat = n := by
  rw [BitVec.setWidth_ofNat_of_le hk, BitVec.toNat_ofNat, Nat.mod_eq_of_lt hn]

/-- Settles O9: dividing flags * 4096 + length by 4096 gives the flags, and the length remains. -/
theorem flagsLengthRoundTrip : Obligations.FlagsLengthRoundTrip := by
  intro f l s hf hl
  have hlt : f.toNat * 4096 + l.toNat < 65536 := by omega
  have hdiv : (f.toNat * 4096 + l.toNat) / 4096 = f.toNat := by omega
  have hmod : (f.toNat * 4096 + l.toNat) % 4096 = l.toNat := by omega
  have hword := toNat_setWidth_result (k := 16) hlt (by decide)
  refine ⟨_, _, exec_flEncode_of_le hf hl s, statusCode_afterOk .., ?_, exec_flDecode _ _, ?_, ?_⟩
  · simp only [afterOk, BitVec.toNat_ofNat]
    omega
  · simp only [afterOk, hword, hdiv, BitVec.toNat_ofNat]
    omega
  · simp only [afterOk, hword, hmod, BitVec.toNat_ofNat]
    omega

/-- Settles O10: the quotient and the remainder by 4096 of a 16-bit word are parts in range, and
packing them gives the word back. -/
theorem flagsLengthConverse : Obligations.FlagsLengthConverse := by
  intro w s
  have hflags : w.toNat / 4096 ≤ 15 := by omega
  have hlength : w.toNat % 4096 ≤ 4095 := by omega
  have hpack : w.toNat / 4096 * 4096 + w.toNat % 4096 = w.toNat := Nat.div_add_mod' ..
  have hf := toNat_setWidth_result (n := w.toNat / 4096) (k := 8) (by omega) (by decide)
  have hl := toNat_setWidth_result (n := w.toNat % 4096) (k := 16) (by omega) (by decide)
  have hencode := exec_flEncode_of_le (hf.trans_le hflags) (hl.trans_le hlength)
  refine ⟨_, _, exec_flDecode w s, ?_, ?_, hencode _, statusCode_afterOk .., ?_⟩
  · exact (Nat.mod_le _ _).trans hflags
  · exact (Nat.mod_le _ _).trans hlength
  · simp only [afterOk, hf, hl, hpack, BitVec.toNat_ofNat]
    omega

end Sys2Proof.Machine
end

section
/-! The display transform: it cuts trim bytes off the two ends and nothing else
(41_layer_accessors.md R120, R121). -/

namespace Sys2Proof.Machine

/-- What `trimFront` removes is a front of trim bytes. -/
theorem exists_append_trimFront (ts l : List Byte) :
    ∃ front, l = front ++ trimFront ts l ∧ ∀ b ∈ front, b ∈ ts :=
  ⟨l.takeWhile (ts.contains ·), List.takeWhile_append_dropWhile.symm,
    fun _ hb => List.contains_iff_mem.mp (List.mem_takeWhile_imp hb)⟩

/-- `trimFront` stops at the first byte outside the trim set. -/
theorem not_mem_of_head?_trimFront {ts l : List Byte} {b : Byte}
    (h : (trimFront ts l).head? = some b) : b ∉ ts := by
  have hstop := List.head?_dropWhile_not (ts.contains ·) l
  rw [trimFront] at h
  rw [h] at hstop
  simpa using hstop

theorem trimFront_eq_nil {ts l : List Byte} (h : ∀ b ∈ l, b ∈ ts) : trimFront ts l = [] :=
  List.dropWhile_eq_nil_iff.mpr fun b hb => List.contains_iff_mem.mpr (h b hb)

/-- Settles O14: one `trimFront` takes the front, and one on the reversed list takes the back. -/
theorem displayConvertsThenTrims : Obligations.DisplayConvertsThenTrims := by
  intro ts l
  obtain ⟨front, hfront, hfrontTrim⟩ := exists_append_trimFront ts (l.map nulToSpace)
  obtain ⟨back, hback, hbackTrim⟩ :=
    exists_append_trimFront ts (trimFront ts (l.map nulToSpace)).reverse
  have hrest : trimFront ts (l.map nulToSpace) = display ts l ++ back.reverse := by
    rw [← List.reverse_inj, hback, List.reverse_append, List.reverse_reverse, display,
      List.reverse_reverse, ← hback]
  refine ⟨front, back.reverse, ?_, hfrontTrim, fun b hb => hbackTrim b (List.mem_reverse.mp hb),
    fun b hb => ?_, fun b hb => ?_⟩
  · rw [List.append_assoc, ← hrest]
    exact hfront
  · have hhead : (trimFront ts (l.map nulToSpace)).head? = some b := by
      rw [hrest, List.head?_append, hb, Option.some_or]
    exact not_mem_of_head?_trimFront hhead
  · rw [display, List.getLast?_reverse] at hb
    exact not_mem_of_head?_trimFront hb

/-- Settles O15: every byte has become a space, which an admitted TRIM_SET holds. -/
theorem allNulDisplaysEmpty : Obligations.AllNulDisplaysEmpty := by
  intro c n hc
  have hspace : 0x20#8 ∈ c.trimSet := by
    simp only [Config.wellFormed, Config.trimSetOk, Bool.and_eq_true] at hc
    exact List.contains_iff_mem.mp hc.2
  have htrim : trimFront c.trimSet ((List.replicate n 0x00#8).map nulToSpace) = [] := by
    refine trimFront_eq_nil fun b hb => ?_
    rw [List.map_replicate] at hb
    exact List.eq_of_mem_replicate hb ▸ hspace
  rw [display, htrim]
  rfl

end Sys2Proof.Machine
end

section
/-! The layer accessors: LAYER_INFO, the two SPLITs, SET_SEQUENCE and the two reads of the value
block (41_layer_accessors.md R122 to R128). -/

namespace Sys2Proof.Machine

/-- A command that ends with one block written from OUT[0] on answers that block. -/
theorem answersBytes_of_block {i : Instr} {s : State} {r0 r1 : BitVec 32} {bs : List Byte} {n : Nat}
    (hn : bs.length = n) (h : exec i s = .next ((s.memWrite 0 bs).respond r0 r1 n)) :
    answersBytes i s r0 r1 bs := by
  subst hn
  exact ⟨_, h, outIs_memWrite s bs, rfl⟩

/-- A selector with a layer's number selects the layer. -/
theorem layerOfSel_of_toNat {sel : BitVec 8} (l : Layer) (h : sel.toNat = (layerSel l).toNat) :
    layerOfSel sel = some l := by
  rw [BitVec.eq_of_toNat_eq h, layerOfSel_layerSel]

theorem exists_layerOfSel {sel : BitVec 8} (h : sel.toNat < 3) : ∃ l, layerOfSel sel = some l := by
  obtain h0 | h1 | h2 : sel.toNat = 0 ∨ sel.toNat = 1 ∨ sel.toNat = 2 := by omega
  · exact ⟨_, layerOfSel_of_toNat .root h0⟩
  · exact ⟨_, layerOfSel_of_toNat .frame h1⟩
  · exact ⟨_, layerOfSel_of_toNat .dmp h2⟩

theorem execLayerInfo_of_none {sel : BitVec 8} (hsel : layerOfSel sel = none) (s : State) :
    exec (.layerInfo sel) s = .next (afterError s 4#8 0#8) := by
  simp only [exec, execLayerInfo, hsel]
  rfl

theorem execLayerInfo_noPacket {sel : BitVec 8} {l : Layer} (hsel : layerOfSel sel = some l)
    {s : State} (hv : s.pktValid = false) :
    exec (.layerInfo sel) s = .next (afterError s 5#8 0#8) := by
  simp only [exec, execLayerInfo, hsel, if_pos hv]
  rfl

/-- LAYER_INFO with a packet gives the remainder and the quotient by 4096 (R122). -/
theorem execLayerInfo_ok {sel : BitVec 8} {l : Layer} (hsel : layerOfSel sel = some l) {s : State}
    (hv : s.pktValid = true) :
    exec (.layerInfo sel) s = .next (afterOk s
      (BitVec.ofNat 32 ((flagsLengthOf s.pkt l).toNat % 4096))
      (BitVec.ofNat 32 ((flagsLengthOf s.pkt l).toNat / 4096)) 0) := by
  rw [← toNat_lengthOf, ← toNat_flagsOf, BitVec.ofNat_toNat, BitVec.ofNat_toNat]
  simp only [exec, execLayerInfo, hsel, if_neg (ne_false_of_eq_true hv)]
  rfl

/-- Settles O11: the selector is checked, then the packet; each layer number names its register. -/
theorem layerInfoReportsLengthAndFlags : Obligations.LayerInfoReportsLengthAndFlags := by
  intro sel s
  refine ⟨decode_encode (.layerInfo sel),
    fun hsel => execLayerInfo_of_none (layerOfSel_eq_none hsel) s,
    fun hsel hv => ?_, fun fl hv hfl => ?_⟩
  · obtain ⟨l, hl⟩ := exists_layerOfSel hsel
    exact execLayerInfo_noPacket hl hv
  · rcases hfl with ⟨hsel, rfl⟩ | ⟨hsel, rfl⟩ | ⟨hsel, rfl⟩
    · exact execLayerInfo_ok (layerOfSel_of_toNat .root hsel) hv
    · exact execLayerInfo_ok (layerOfSel_of_toNat .frame hsel) hv
    · exact execLayerInfo_ok (layerOfSel_of_toNat .dmp hsel) hv

/-- ROOT_SPLIT with a packet writes the component id, then the display identifier (R123). -/
theorem execRootSplit_ok {s : State} (hv : s.pktValid = true) :
    answersBytes .rootSplit s
      (BitVec.ofNat 32 (display s.cfg.trimSet s.pkt.root.acnPacketIdentifier.toList).length) 0#32
      (s.pkt.root.componentId.toList ++
        display s.cfg.trimSet s.pkt.root.acnPacketIdentifier.toList) := by
  refine ⟨_, if_neg (ne_false_of_eq_true hv), outIs_memWrite_memWrite s _ _ 16 (by simp), ?_⟩
  rw [List.length_append, Vector.length_toList]
  rfl

/-- Settles O12: the packet check, and `execRootSplit_ok` past it. -/
theorem rootSplitGivesCidAndIdentifier : Obligations.RootSplitGivesCidAndIdentifier := by
  intro s
  refine ⟨decode_encode .rootSplit, fun hv => if_pos hv, fun d hd hv => ?_⟩
  subst hd
  exact execRootSplit_ok hv

/-- The decoded options bit by bit: the raw byte, then its bits 6 and 7 again (R125). -/
theorem getLsbD_optionsWord (o : BitVec 8) (j : Nat) :
    (optionsWord o).getLsbD j =
      if j < 8 then o.getLsbD j
      else if j = 8 then o.getLsbD 6
      else if j = 9 then o.getLsbD 7
      else false := by
  unfold optionsWord
  rw [BitVec.getLsbD_setWidth, BitVec.getLsbD_append, BitVec.getLsbD_append]
  obtain hraw | rfl | rfl | hrest : j < 8 ∨ j = 8 ∨ j = 9 ∨ 10 ≤ j := by omega
  · have h32 : j < 32 := by omega
    simp [hraw, h32]
  · simp
  · simp
  · have hraw : ¬j < 8 := by omega
    have h8 : j ≠ 8 := by omega
    have h9 : j ≠ 9 := by omega
    have hpreview : ¬j - 8 < 1 := by omega
    have htop : ¬j - 8 - 1 < 1 := by omega
    simp [hraw, h8, h9, hpreview, htop]

theorem extractLsb'_optionsWord_raw (o : BitVec 8) : (optionsWord o).extractLsb' 0 8 = o := by
  apply BitVec.eq_of_getLsbD_eq
  intro j hj
  simp [getLsbD_optionsWord, hj]

theorem extractLsb'_optionsWord_rest (o : BitVec 8) : (optionsWord o).extractLsb' 10 22 = 0#22 := by
  apply BitVec.eq_of_getLsbD_eq
  intro j hj
  have h8 : ¬10 + j < 8 := by omega
  have h9 : 10 + j ≠ 8 ∧ 10 + j ≠ 9 := by omega
  simp [BitVec.getLsbD_extractLsb', getLsbD_optionsWord, h8, h9]

/-- FRAME_SPLIT with a packet writes the display name and packs the fields (R124). -/
theorem execFrameSplit_ok {s : State} (hv : s.pktValid = true) :
    answersBytes .frameSplit s
      (s.pkt.frame.priority ++ s.pkt.frame.sequenceNumber ++ s.pkt.frame.dmxUniverse)
      (optionsWord s.pkt.frame.options) (display s.cfg.trimSet s.pkt.frame.sourceName.toList) :=
  answersBytes_of_block rfl (if_neg (ne_false_of_eq_true hv))

/-- Settles O13: RES0 is three fields side by side, and RES1 is the options word bit by bit. -/
theorem frameSplitReportsFields : Obligations.FrameSplitReportsFields := by
  intro s
  exact ⟨decode_encode .frameSplit, fun hv => if_pos hv, fun hv => ⟨_, _, execFrameSplit_ok hv,
    opcodeOf_word16 _ _ _, flg8_word16 _ _ _, len16_word16 _ _ _, extractLsb'_optionsWord_raw _,
    getLsbD_optionsWord _ 8, getLsbD_optionsWord _ 9, extractLsb'_optionsWord_rest _⟩⟩

/-- Settles O16: the byte stored is the operand's remainder, and RES0 is that byte. -/
theorem setSequenceStoresModulo : Obligations.SetSequenceStoresModulo := by
  intro v s
  refine ⟨decode_encode (.setSequence v), fun hv => if_pos hv, fun hv => ?_⟩
  have hres : (BitVec.ofNat 8 (v.toNat % 256)).setWidth 32 = BitVec.ofNat 32 (v.toNat % 256) := by
    apply BitVec.eq_of_toNat_eq
    simp
  rw [← hres]
  exact if_neg (ne_false_of_eq_true hv)

/-- Settles O17: with a packet, RES0 is the first byte of the value block. -/
theorem startCodeIsIndexZero : Obligations.StartCodeIsIndexZero := by
  intro s sc
  refine ⟨decode_encode .dmpGetStartCode, fun hv => if_pos hv, fun hv hsc => ?_⟩
  have hbyte : byteAt s.pkt.dmp.propertyValues.toList 0 = sc := by
    rw [byteAt, List.getD_eq_getElem?_getD, hsc]
    rfl
  rw [← hbyte]
  exact if_neg (ne_false_of_eq_true hv)

/-- A slice gives the list's bytes from its start on, and nothing past its length. -/
theorem getElem?_slice (l : List Byte) (a n k : Nat) :
    (slice l a n)[k]? = if k < n then l[a + k]? else none := by
  rw [slice, List.getElem?_take, List.getElem?_drop]

/-- Settles O18: the bytes written are the slice of the value block from index 1 on. -/
theorem getValuesGivesAllSlots : Obligations.GetValuesGivesAllSlots := by
  intro s
  have hlen : (slice s.pkt.dmp.propertyValues.toList 1 dmxSlots).length = 512 := by simp [dmxSlots]
  refine ⟨decode_encode .dmpGetValues, fun hv => if_pos hv,
    fun hv => ⟨_, hlen, fun k hk => ?_,
      answersBytes_of_block hlen (if_neg (ne_false_of_eq_true hv))⟩⟩
  rw [getElem?_slice, if_pos (show k < dmxSlots from hk), Nat.add_comm]

/-- Settles O37: the packet UPDATE stored has the start code and the 512 bytes as its value
block, of which DMP_GET_START_CODE gives the first and DMP_GET_VALUES the others. -/
theorem updateThenGetValues : Obligations.UpdateThenGetValues := by
  intro sc seq s hlen hcap hv
  have hupdate := execUpdate_ok sc seq hlen hcap hv
  generalize ht : (s.setPacket (s.updatedPacket sc seq)).respond 0#32 0#32 0 = t at hupdate
  have htv : t.pktValid = true := by rw [← ht]; exact hv
  have hblock : t.pkt.dmp.propertyValues.toList = sc :: s.valuesOperand := by
    rw [← ht]
    exact updatedPacket_values s sc seq
  obtain ⟨_, _, hstart⟩ := startCodeIsIndexZero t sc
  obtain ⟨_, _, hvalues⟩ := getValuesGivesAllSlots t
  obtain ⟨vals, hvlen, hvals, b, hb, hout, hframe⟩ := hvalues htv
  refine ⟨t, _, b, hupdate, hstart htv (by rw [hblock]; rfl), hb, rfl, ?_, fun k hk => ?_⟩
  · rw [hframe, hvlen]
    rfl
  · rw [hout k, if_pos (by omega), hvals k hk, hblock, List.getElem?_cons_succ,
      getElem?_valuesOperand hk]

end Sys2Proof.Machine
end

section
/-! READ_FIELD: the table of R21 by number is the table the machine runs on (20_memory.md R53,
41_layer_accessors.md R130, R131). -/

namespace Sys2Proof.Machine

/-- The rows of R21 are the id and the register of each field. -/
theorem fieldTable_eq (p : Packet) :
    fieldTable p = allFields.map fun f => (fieldId f, p.get f) := rfl

theorem of_mem_fieldTable {fid : BitVec 8} {v : FieldValue} {p : Packet}
    (h : (fid, v) ∈ fieldTable p) : ∃ f, fid = fieldId f ∧ p.get f = v := by
  rw [fieldTable_eq] at h
  obtain ⟨f, _, hf⟩ := List.mem_map.mp h
  cases hf
  exact ⟨f, rfl, rfl⟩

theorem definedFieldId_fieldId (f : Field) : definedFieldId (fieldId f).toNat = true := by
  cases f <;> rfl

/-- The ranges of R53 hold no number but the 21 field ids. -/
theorem exists_fieldId_of_defined {n : Nat} (h : definedFieldId n = true) :
    ∃ f, (fieldId f).toNat = n := by
  have hmem : n ∈ allFields.map fun f => (fieldId f).toNat := by
    simp only [definedFieldId, Bool.or_eq_true, Bool.and_eq_true, decide_eq_true_eq] at h
    simp only [allFields, fieldId, List.map_cons, List.map_nil, List.mem_cons, List.not_mem_nil,
      BitVec.toNat_ofNat]
    omega
  obtain ⟨f, _, hf⟩ := List.mem_map.mp hmem
  exact ⟨f, hf⟩

theorem fieldOfId_of_undefined {fid : BitVec 8} (h : definedFieldId fid.toNat = false) :
    fieldOfId fid = none := by
  cases hf : fieldOfId fid with
  | none => rfl
  | some f =>
    rw [fieldOfId_some hf, definedFieldId_fieldId] at h
    cases h

theorem execReadField_of_none {fid : BitVec 8} (hfid : fieldOfId fid = none) (s : State) :
    exec (.readField fid) s = .next (afterError s 6#8 4#8) := by
  simp only [exec, execReadField, hfid]
  rfl

theorem execReadField_noPacket (f : Field) {s : State} (hv : s.pktValid = false) :
    exec (.readField (fieldId f)) s = .next (afterError s 5#8 0#8) := by
  simp only [exec, execReadField, fieldOfId_fieldId, if_pos hv]
  rfl

/-- READ_FIELD with a packet gives the output form of the field's register (R131). -/
theorem execReadField_ok {f : Field} {v : FieldValue} {s : State} (hv : s.pktValid = true)
    (hf : s.pkt.get f = v) : exec (.readField (fieldId f)) s = .next (s.respondField v) := by
  subst hf
  simp only [exec, execReadField, fieldOfId_fieldId, if_neg (ne_false_of_eq_true hv)]
  rfl

/-- READ_FIELD at a row of R21 gives the output form of the row's register. -/
theorem execReadField_of_mem {fid : BitVec 8} {v : FieldValue} {s : State} (hv : s.pktValid = true)
    (h : (fid, v) ∈ fieldTable s.pkt) : exec (.readField fid) s = .next (s.respondField v) := by
  obtain ⟨f, rfl, hf⟩ := of_mem_fieldTable h
  exact execReadField_ok hv hf

/-- Settles O19: the id is checked, then the packet; each row of R21 answers in its kind's form. -/
theorem readFieldReturnsRegister : Obligations.ReadFieldReturnsRegister := by
  intro fid s
  refine ⟨decode_encode (.readField fid),
    fun hfid => execReadField_of_none (fieldOfId_of_undefined hfid) s, fun hfid hv => ?_,
    fun hv => ⟨fun v h => execReadField_of_mem hv h, fun v h => execReadField_of_mem hv h,
      fun v h => execReadField_of_mem hv h,
      fun bs h => answersBytes_of_block rfl (execReadField_of_mem hv h)⟩⟩
  obtain ⟨f, hf⟩ := exists_fieldId_of_defined hfid
  rw [← BitVec.eq_of_toNat_eq hf]
  exact execReadField_noPacket f hv

end Sys2Proof.Machine
end

section
/-! The endianness converter: the checks of TO_NETWORK and TO_HOST, and the conversion both make of the
layer image in IN (42_endianness.md R153, R154). -/

namespace Sys2Proof.Machine

theorem convertLayer_of_tooLong {s : State} (h : s.cfg.inCap < s.inLen.toNat) (sel : BitVec 8) :
    convertLayer sel s = .next (afterError s 6#8 3#8) :=
  if_pos (decide_eq_true h)

theorem inTooLong_eq_false {s : State} (h : s.inLen.toNat ≤ s.cfg.inCap) : s.inTooLong = false :=
  decide_eq_false (Nat.not_lt.mpr h)

theorem convertLayer_of_none {sel : BitVec 8} (hsel : layerOfSel sel = none) {s : State}
    (hcap : s.inLen.toNat ≤ s.cfg.inCap) :
    convertLayer sel s = .next (afterError s 4#8 0#8) := by
  simp only [convertLayer, inTooLong_eq_false hcap, hsel]
  rfl

theorem convertLayer_of_short {l : Layer} {s : State} (hcap : s.inLen.toNat ≤ s.cfg.inCap)
    (hlen : s.inLen.toNat < layerSize l) :
    convertLayer (layerSel l) s = .next (afterError s 3#8 3#8) := by
  simp only [convertLayer, inTooLong_eq_false hcap, layerOfSel_layerSel, if_pos hlen]
  rfl

/-- A conversion past its checks writes SwapImg of the layer's operand (R153, R154). -/
theorem convertLayer_ok {l : Layer} {s : State} (hcap : s.inLen.toNat ≤ s.cfg.inCap)
    (hlen : layerSize l ≤ s.inLen.toNat) :
    convertLayer (layerSel l) s = .next ((s.memWrite 0 (swapImg l (s.layerOperand l))).respond
      (BitVec.ofNat 32 (layerSize l)) 0#32 (layerSize l)) := by
  simp only [convertLayer, inTooLong_eq_false hcap, layerOfSel_layerSel,
    if_neg (Nat.not_lt.mpr hlen)]
  rfl

/-- The layer's operand is IN from index 0 on (R94). -/
theorem layerOperand_eq (s : State) (l : Layer) :
    s.layerOperand l = (List.range (layerSize l)).map s.inAt := by
  simp only [State.layerOperand, State.memRead, Nat.zero_add]

@[simp] theorem length_layerOperand (s : State) (l : Layer) :
    (s.layerOperand l).length = layerSize l :=
  length_memRead ..

theorem getElem?_layerOperand {s : State} {l : Layer} {k : Nat} (hk : k < layerSize l) :
    (s.layerOperand l)[k]? = some (s.inAt k) := by
  rw [State.layerOperand, getElem?_memRead, if_pos hk, Nat.zero_add]

/-- A command that is the conversion makes its three checks in their order and, past them, answers the
converted operand (R153, R154). -/
theorem exec_of_convertLayer {i : Instr} {sel : BitVec 8} {s : State}
    (hi : exec i s = convertLayer sel s) :
    (s.cfg.inCap < s.inLen.toNat → exec i s = .next (afterError s 6#8 3#8)) ∧
    (s.inLen.toNat ≤ s.cfg.inCap → 3 ≤ sel.toNat → exec i s = .next (afterError s 4#8 0#8)) ∧
    ∀ l base size, (sel, l, base, size) ∈ layerTable → s.inLen.toNat ≤ s.cfg.inCap →
      (s.inLen.toNat < size → exec i s = .next (afterError s 3#8 3#8)) ∧
      (size ≤ s.inLen.toNat →
        answersBytes i s (BitVec.ofNat 32 size) 0#32
          (swapImg l ((List.range size).map s.inAt))) := by
  refine ⟨fun hlong => hi.trans (convertLayer_of_tooLong hlong sel),
    fun hcap hsel => hi.trans (convertLayer_of_none (layerOfSel_eq_none hsel) hcap),
    fun l base size hrow hcap => ?_⟩
  obtain ⟨rfl, -, rfl⟩ := of_mem_layerTable hrow
  refine ⟨fun hshort => hi.trans (convertLayer_of_short hcap hshort), fun hlen => ?_⟩
  rw [← layerOperand_eq]
  exact answersBytes_of_block (by simp) (hi.trans (convertLayer_ok hcap hlen))

/-- Settles O20: the word is TO_NETWORK's encoding, and TO_NETWORK is the conversion. -/
theorem toNetworkConvertsLayer : Obligations.ToNetworkConvertsLayer := fun sel _ =>
  ⟨decode_encode (.toNetwork sel), exec_of_convertLayer rfl⟩

/-- Settles O21: the word is TO_HOST's encoding, and TO_HOST is the same conversion. -/
theorem toHostConvertsLayer : Obligations.ToHostConvertsLayer := fun sel _ =>
  ⟨decode_encode (.toHost sel), exec_of_convertLayer rfl⟩

end Sys2Proof.Machine
end

section
/-! SwapImg byte by byte: spans that lie apart are reversed one by one without touching each other
(42_endianness.md R150, R155). -/

namespace Sys2Proof.Machine

/-- The spans stand in ascending order without overlap, inside an image of n bytes. -/
def SpansApart (n : Nat) (ps : List (Nat × Nat)) : Prop :=
  ps.Pairwise (fun p q => p.1 + p.2 ≤ q.1) ∧ ∀ p ∈ ps, p.1 + p.2 ≤ n

theorem spansApart_cons {n : Nat} {p : Nat × Nat} {ps : List (Nat × Nat)} :
    SpansApart n (p :: ps) ↔
      (∀ q ∈ ps, p.1 + p.2 ≤ q.1) ∧ p.1 + p.2 ≤ n ∧ SpansApart n ps := by
  simp only [SpansApart, List.pairwise_cons, List.forall_mem_cons]
  tauto

theorem spansApart_spans (l : Layer) : SpansApart (layerSize l) (spans l) := by
  unfold SpansApart
  cases l <;> decide

theorem spanTable_eq (l : Layer) : spanTable l = spans l := by cases l <;> rfl

/-- The reversal of one span keeps every byte outside it. -/
theorem getElem?_swapSpan_outside {img : List Byte} {p : Nat × Nat} {i : Nat}
    (hin : p.1 + p.2 ≤ img.length) (hi : i < p.1 ∨ p.1 + p.2 ≤ i) :
    (swapSpan img p)[i]? = img[i]? := by
  rw [getElem?_swapSpan img p.1 p.2 i hin, if_neg (by omega)]

theorem getElem?_foldl_swapSpan_outside {ps : List (Nat × Nat)} {img : List Byte} {i : Nat}
    (hin : ∀ p ∈ ps, p.1 + p.2 ≤ img.length) (hi : ∀ p ∈ ps, i < p.1 ∨ p.1 + p.2 ≤ i) :
    (ps.foldl swapSpan img)[i]? = img[i]? := by
  induction ps generalizing img with
  | nil => rfl
  | cons p ps ih =>
    rw [List.forall_mem_cons] at hin hi
    obtain ⟨hpin, hpsin⟩ := hin
    obtain ⟨hpi, hpsi⟩ := hi
    rw [List.foldl_cons, ih (by simpa using hpsin) hpsi, getElem?_swapSpan_outside hpin hpi]

/-- Of spans that lie apart, each ends up reversed: the others leave it alone. -/
theorem getElem?_foldl_swapSpan_inside {ps : List (Nat × Nat)} {img : List Byte} {a w j : Nat}
    (hps : SpansApart img.length ps) (hmem : (a, w) ∈ ps) (hj : j < w) :
    (ps.foldl swapSpan img)[a + j]? = img[a + w - 1 - j]? := by
  induction ps generalizing img with
  | nil => cases hmem
  | cons p ps ih =>
    obtain ⟨hafter, hpin, hrest⟩ := spansApart_cons.mp hps
    rw [List.foldl_cons]
    obtain rfl | hmem := List.mem_cons.mp hmem
    · have houtside : ∀ q ∈ ps, a + j < q.1 ∨ q.1 + q.2 ≤ a + j := fun q hq => by
        have := hafter q hq
        omega
      rw [getElem?_foldl_swapSpan_outside (by simpa using hrest.2) houtside,
        getElem?_swapSpan img a w _ hpin, if_pos (by omega), Nat.add_sub_cancel_left]
    · have hbefore := hafter (a, w) hmem
      rw [ih (by simpa using hrest) hmem, getElem?_swapSpan_outside hpin (by omega)]

/-- Settles O22: the spans of each layer lie apart within its size. -/
theorem swapImgReversesSpans : Obligations.SwapImgReversesSpans := by
  intro l img hlen
  have hapart : SpansApart img.length (spans l) := hlen ▸ spansApart_spans l
  rw [spanTable_eq]
  exact ⟨length_swapImg l img, fun a w j => getElem?_foldl_swapSpan_inside hapart,
    fun i hi => getElem?_foldl_swapSpan_outside hapart.2 fun p => hi p.1 p.2⟩

/-- A byte in a span moves to the mirrored place and back; any other byte stays (R155). -/
theorem swapImg_swapImg {l : Layer} {img : List Byte} (hlen : img.length = layerSize l) :
    swapImg l (swapImg l img) = img := by
  obtain ⟨-, hspan, hrest⟩ := swapImgReversesSpans l img hlen
  obtain ⟨-, hspan', hrest'⟩ :=
    swapImgReversesSpans l (swapImg l img) ((length_swapImg l img).trans hlen)
  apply List.ext_getElem?
  intro i
  by_cases hi : ∀ a w, (a, w) ∈ spanTable l → i < a ∨ a + w ≤ i
  · rw [hrest' i hi, hrest i hi]
  · push Not at hi
    obtain ⟨a, w, hmem, hle, hlt⟩ := hi
    obtain ⟨j, rfl⟩ := Nat.exists_eq_add_of_le hle
    have hmirror : a + w - 1 - j = a + (w - 1 - j) := by omega
    rw [hspan' a w j hmem (by omega), hmirror, hspan a w _ hmem (by omega)]
    congr 1
    omega

/-- OUT holds the block that was just written. -/
theorem read_out_memWrite (s : State) {bs : List Byte} {k : Nat} (hk : k < bs.length) :
    (s.memWrite 0 bs).out.read k = bs[k]? :=
  (outIs_memWrite s bs k).trans (if_pos hk)

/-- IN of `v` holds what the conversion of IN of `s` wrote. -/
theorem layerOperand_of_out {l : Layer} {s t v : State}
    (ht : convertLayer (layerSel l) s = .next t) (hcap : s.inLen.toNat ≤ s.cfg.inCap)
    (hlen : layerSize l ≤ s.inLen.toNat)
    (hout : ∀ k, k < layerSize l → t.out.read k = some (v.inAt k)) :
    v.layerOperand l = swapImg l (s.layerOperand l) := by
  rw [convertLayer_ok hcap hlen] at ht
  cases ht
  have hlength : (v.layerOperand l).length = (swapImg l (s.layerOperand l)).length := by simp
  refine List.ext_getElem? fun k => ?_
  by_cases hk : k < layerSize l
  · rw [getElem?_layerOperand hk, ← hout k hk]
    exact read_out_memWrite s (by simpa using hk)
  · have hv : (v.layerOperand l).length ≤ k := by simpa using hk
    rw [List.getElem?_eq_none hv, List.getElem?_eq_none (hlength ▸ hv)]

/-- Settles O25: both commands make the same conversion, which undoes itself. -/
theorem conversionsAreMutualInverses : Obligations.ConversionsAreMutualInverses := by
  refine ⟨fun l img => swapImg_swapImg, ?_⟩
  intro sel l base size s v t hrow hscap hslen hvcap hvlen ht hout
  obtain ⟨rfl, -, rfl⟩ := of_mem_layerTable hrow
  have hback : swapImg l (v.layerOperand l) = s.layerOperand l := by
    rw [layerOperand_of_out ht hscap hslen hout, swapImg_swapImg (length_layerOperand s l)]
  refine ⟨_, convertLayer_ok hvcap hvlen, ?_, fun k hk => ?_⟩
  · cases l <;> rfl
  · rw [hback, ← getElem?_layerOperand hk]
    exact read_out_memWrite v (by simpa using hk)

end Sys2Proof.Machine
end

section
/-! The host image and the wire image field by field: each holds its fields' bytes in wire order, and
SwapImg reverses exactly the fields that have a byte order (42_endianness.md R151, R152). -/

namespace Sys2Proof.Machine

/-- The fields of a layer in wire order (R21). -/
def fieldsOf (l : Layer) : List Field := allFields.filter (fun f => fieldLayer f = l)

theorem hostImage_eq (l : Layer) (p : Packet) :
    hostImage l p = (fieldsOf l).flatMap fun f => hostBytes (p.get f) := rfl

/-- The wire image is every field's wire bytes in the order of R21 (R172). -/
theorem wireImage_flatMap (p : Packet) :
    wireImage p = allFields.flatMap fun f => wireBytes (p.get f) := by
  delta wireImage
  simp only [allFields, List.flatMap_cons, List.flatMap_nil, Packet.get, wireBytes,
    List.append_assoc, List.append_nil]

theorem length_hostBytes_get (p : Packet) (f : Field) :
    (hostBytes (p.get f)).length = fieldLength f := by
  cases f <;> simp [Packet.get, hostBytes, fieldLength, fieldKind, kindLength, identLen, cidLen,
    nameLen, pvLen]

/-- A kind whose value has a byte order: a scalar of more than one byte (R55). -/
def hasByteOrder : FieldKind → Bool
  | .s16 | .s32 => true
  | .s8 | .array _ => false

/-- The wire bytes of a field are its host bytes, reversed where there is a byte order (R55, R56). -/
theorem wireBytes_get (p : Packet) (f : Field) :
    wireBytes (p.get f) =
      if hasByteOrder (fieldKind f) then (hostBytes (p.get f)).reverse else hostBytes (p.get f) := by
  cases f <;> rfl

theorem length_wireBytes_get (p : Packet) (f : Field) :
    (wireBytes (p.get f)).length = fieldLength f := by
  rw [wireBytes_get, ← length_hostBytes_get p f]
  split <;> simp

theorem length_flatMap_fields {g : Field → List Byte} (hg : ∀ f, (g f).length = fieldLength f)
    (fs : List Field) : (fs.flatMap g).length = (fs.map fieldLength).sum := by
  rw [List.length_flatMap, funext hg]

theorem sum_fieldLength_fieldsOf (l : Layer) : ((fieldsOf l).map fieldLength).sum = layerSize l := by
  cases l <;> rfl

/-- The slice that starts where the bytes in front end. -/
theorem slice_append {before bs after : List Byte} :
    slice (before ++ (bs ++ after)) before.length bs.length = bs := by
  rw [slice, List.drop_left, List.take_left]

-- The fields of a layer at their offsets

/-- The fields before a field in its layer. -/
def fieldsBefore (f : Field) : List Field := (fieldsOf (fieldLayer f)).takeWhile (· ≠ f)

theorem fieldsOf_eq_before_append (f : Field) :
    ∃ after, fieldsOf (fieldLayer f) = fieldsBefore f ++ f :: after :=
  ⟨((fieldsOf (fieldLayer f)).dropWhile (· ≠ f)).tail, by cases f <;> rfl⟩

/-- The offset of a field in its layer is the length of the fields before it (R54). -/
theorem sum_fieldLength_fieldsBefore (f : Field) :
    ((fieldsBefore f).map fieldLength).sum = fieldOffset f - layerBase (fieldLayer f) := by
  cases f <;> rfl

/-- Each field's bytes stand at its offset in its layer (R151). -/
theorem slice_hostImage (p : Packet) (f : Field) :
    slice (hostImage (fieldLayer f) p) (fieldOffset f - layerBase (fieldLayer f))
      (hostBytes (p.get f)).length = hostBytes (p.get f) := by
  obtain ⟨after, hfields⟩ := fieldsOf_eq_before_append f
  rw [hostImage_eq, hfields, List.flatMap_append, List.flatMap_cons,
    ← sum_fieldLength_fieldsBefore, ← length_flatMap_fields (length_hostBytes_get p)]
  exact slice_append

theorem leBytes_one (v : BitVec 8) : leBytes 1 v.toNat = [v] := by
  rw [leBytes_eq_reverse, beBytes_one]
  rfl

theorem leBytes_two (v : BitVec 16) : leBytes 2 v.toNat = le2 v := by
  rw [leBytes_eq_reverse, beBytes_two]
  rfl

theorem leBytes_four (v : BitVec 32) : leBytes 4 v.toNat = le4 v := by
  rw [leBytes_eq_reverse, beBytes_four]
  rfl

/-- The rows of R151 are the layer, the offset in it and the host bytes of each field. -/
theorem hostTable_eq (p : Packet) :
    hostTable p = allFields.map fun f =>
      (fieldLayer f, fieldOffset f - layerBase (fieldLayer f), hostBytes (p.get f)) := by
  simp only [hostTable, leBytes_one, leBytes_two, leBytes_four]
  rfl

/-- Settles O23: each row of R151 is a field, which `slice_hostImage` finds at its offset. -/
theorem hostImageLaysOutFields : Obligations.HostImageLaysOutFields := by
  intro p l
  refine ⟨?_, fun off bs hrow => ?_⟩
  · rw [hostImage_eq, length_flatMap_fields (length_hostBytes_get p), sum_fieldLength_fieldsOf]
  · rw [hostTable_eq] at hrow
    obtain ⟨f, -, hf⟩ := List.mem_map.mp hrow
    cases hf
    exact slice_hostImage p f

-- SwapImg of the host image

/-- The spans of the fields that have a byte order, for fields that follow each other from an offset
on. -/
def orderedSpans (off : Nat) : List Field → List (Nat × Nat)
  | [] => []
  | f :: fs =>
    (if hasByteOrder (fieldKind f) then [(off, fieldLength f)] else []) ++
      orderedSpans (off + fieldLength f) fs

/-- The spans of R150 are those of the layer's fields. -/
theorem spans_eq_orderedSpans (l : Layer) : spans l = orderedSpans 0 (fieldsOf l) := by
  cases l <;> rfl

theorem swapSpan_append (before bs after : List Byte) :
    swapSpan (before ++ (bs ++ after)) (before.length, bs.length) =
      before ++ (bs.reverse ++ after) := by
  have hafter : (before ++ (bs ++ after)).drop (before.length + bs.length) = after := by
    rw [← List.drop_drop, List.drop_left, List.drop_left]
  rw [swapSpan, slice_append, List.take_left, hafter, List.append_assoc]

/-- At a field, SwapImg's step turns the host bytes into the wire bytes. -/
theorem foldl_swapSpan_field (p : Packet) (f : Field) (before after : List Byte) :
    (if hasByteOrder (fieldKind f) then [(before.length, fieldLength f)] else []).foldl swapSpan
      (before ++ (hostBytes (p.get f) ++ after)) = before ++ (wireBytes (p.get f) ++ after) := by
  rw [wireBytes_get]
  split
  · rw [List.foldl_cons, List.foldl_nil, ← length_hostBytes_get p f, swapSpan_append]
  · rfl

/-- Field by field, the spans turn host bytes into wire bytes. -/
theorem foldl_swapSpan_fields (p : Packet) (fs : List Field) (before : List Byte) :
    (orderedSpans before.length fs).foldl swapSpan
      (before ++ fs.flatMap fun f => hostBytes (p.get f)) =
      before ++ fs.flatMap fun f => wireBytes (p.get f) := by
  induction fs generalizing before with
  | nil => rfl
  | cons f fs ih =>
    have hlen : before.length + fieldLength f = (before ++ wireBytes (p.get f)).length := by
      rw [List.length_append, length_wireBytes_get]
    rw [orderedSpans, List.foldl_append, List.flatMap_cons, foldl_swapSpan_field, hlen,
      ← List.append_assoc, ih, List.flatMap_cons, List.append_assoc]

theorem swapImg_hostImage (l : Layer) (p : Packet) :
    swapImg l (hostImage l p) = (fieldsOf l).flatMap fun f => wireBytes (p.get f) := by
  rw [swapImg, hostImage_eq, spans_eq_orderedSpans]
  exact foldl_swapSpan_fields p (fieldsOf l) []

/-- The fields of a layer stand together in R21, from the layer's base on (R62). -/
theorem allFields_eq_around (l : Layer) : ∃ before after,
    allFields = before ++ (fieldsOf l ++ after) ∧ (before.map fieldLength).sum = layerBase l := by
  cases l with
  | root => exact ⟨[], fieldsOf .frame ++ fieldsOf .dmp, rfl, rfl⟩
  | frame => exact ⟨fieldsOf .root, fieldsOf .dmp, rfl, rfl⟩
  | dmp => exact ⟨fieldsOf .root ++ fieldsOf .frame, [], rfl, rfl⟩

/-- The wire bytes of a layer are those of its fields (R185). -/
theorem layerImage_eq (l : Layer) (p : Packet) :
    layerImage l p = (fieldsOf l).flatMap fun f => wireBytes (p.get f) := by
  obtain ⟨before, after, hfields, hbase⟩ := allFields_eq_around l
  have hlen := length_flatMap_fields (length_wireBytes_get p)
  rw [layerImage, wireImage_flatMap, hfields, List.flatMap_append, List.flatMap_append, ← hbase,
    ← sum_fieldLength_fieldsOf, ← hlen, ← hlen]
  exact slice_append

/-- Settles O24: both sides are the wire bytes of the layer's fields. -/
theorem swappedHostImageIsWireImage : Obligations.SwappedHostImageIsWireImage := by
  intro p sel l base size hrow
  obtain ⟨-, rfl, rfl⟩ := of_mem_layerTable hrow
  rw [swapImg_hostImage, ← layerImage_eq]
  rfl

end Sys2Proof.Machine
end

section
/-! The wire image field by field: each field stands at its offset, and DESERIALIZE's reading of the
fields is the inverse of the image (43_packet.md R172, R190, R195, R196). -/

namespace Sys2Proof.Machine

/-- The fields follow each other without a gap from the offset on. -/
def TiledFrom : Nat → List Field → Prop
  | _, [] => True
  | off, f :: fs => fieldOffset f = off ∧ TiledFrom (off + fieldLength f) fs

/-- The offsets of R54 leave no gap between the fields of R21. -/
theorem tiledFrom_allFields : TiledFrom 0 allFields := by
  simp only [TiledFrom, allFields]
  decide

theorem mem_allFields (f : Field) : f ∈ allFields := by cases f <;> decide

/-- In fields laid end to end, each stands at its offset. -/
theorem slice_flatMap_of_tiled {g : Field → List Byte} (hg : ∀ f, (g f).length = fieldLength f)
    {fs : List Field} {before : List Byte} (hfs : TiledFrom before.length fs) {f : Field}
    (hf : f ∈ fs) : slice (before ++ fs.flatMap g) (fieldOffset f) (fieldLength f) = g f := by
  induction fs generalizing before with
  | nil => cases hf
  | cons f' fs ih =>
    obtain ⟨hoff, hrest⟩ := hfs
    rw [List.flatMap_cons]
    obtain rfl | hf := List.mem_cons.mp hf
    · rw [hoff, ← hg f]
      exact slice_append
    · rw [← List.append_assoc]
      exact ih (by rwa [List.length_append, hg f']) hf

/-- The slices of fields that follow each other are one slice, put end to end. -/
theorem flatMap_slice_of_tiled (b : List Byte) {fs : List Field} {off : Nat}
    (hfs : TiledFrom off fs) :
    (fs.flatMap fun f => slice b (fieldOffset f) (fieldLength f)) =
      slice b off (fs.map fieldLength).sum := by
  induction fs generalizing off with
  | nil => simp [slice]
  | cons f fs ih =>
    obtain ⟨rfl, hrest⟩ := hfs
    rw [List.flatMap_cons, List.map_cons, List.sum_cons, slice_add, ih hrest]

/-- Each field's wire bytes stand at its offset of the wire image (R54). -/
theorem slice_wireImage (p : Packet) (f : Field) :
    slice (wireImage p) (fieldOffset f) (fieldLength f) = wireBytes (p.get f) := by
  rw [wireImage_flatMap]
  exact slice_flatMap_of_tiled (before := []) (length_wireBytes_get p) tiledFrom_allFields
    (mem_allFields f)

/-- The rows of R54 are the offset and the wire bytes of each field. -/
theorem wireTable_eq (p : Packet) :
    wireTable p = allFields.map fun f => (fieldOffset f, wireBytes (p.get f)) := by
  simp only [wireTable, beBytes_one, beBytes_two, beBytes_four]
  rfl

/-- Settles O26: each row of R54 is a field, which `slice_wireImage` finds at its offset. -/
theorem wireImageLaysOutFields : Obligations.WireImageLaysOutFields := by
  intro p
  refine ⟨length_wireImage p, ?_, fun off bs hrow => ?_⟩
  · rw [wireTable_eq, List.flatMap_map, wireImage_flatMap]
  · rw [wireTable_eq] at hrow
    obtain ⟨f, -, hf⟩ := List.mem_map.mp hrow
    cases hf
    rw [length_wireBytes_get, slice_wireImage]

-- A field read from its offset

theorem slice_one {b : List Byte} {o : Nat} (h : o + 1 ≤ b.length) : slice b o 1 = [byteAt b o] := by
  rw [slice, byteAt, List.drop_eq_getElem_cons h, List.getD_eq_getElem _ _ h]
  rfl

theorem slice_succ {b : List Byte} {o n : Nat} (h : o + 1 ≤ b.length) :
    slice b o (n + 1) = byteAt b o :: slice b (o + 1) n := by
  rw [Nat.add_comm n 1, slice_add, slice_one h, List.singleton_append]

/-- The second byte of four side by side. -/
theorem flg8_word88 (a b c d : Byte) : flg8 (a ++ b ++ c ++ d) = b := by
  apply BitVec.eq_of_toNat_eq
  rw [flg8, toNat_field, toNat_word88]
  have := a.isLt; have := b.isLt; have := c.isLt; have := d.isLt; omega

/-- be_2 gives back the bytes that from_be put side by side (00_scope.md R10). -/
theorem be2_fromBe2 {b : List Byte} {o : Nat} (h : o + 2 ≤ b.length) :
    be2 (fromBe2 b o) = slice b o 2 := by
  rw [slice_succ (by omega), slice_one (by omega)]
  exact congrArg₂ (fun x y => [x, y]) BitVec.extractLsb'_append_eq_left
    BitVec.extractLsb'_append_eq_right

/-- be_4 gives back the bytes that from_be put side by side (00_scope.md R10). -/
theorem be4_fromBe4 {b : List Byte} {o : Nat} (h : o + 4 ≤ b.length) :
    be4 (fromBe4 b o) = slice b o 4 := by
  have hbe4 (v : Word) : be4 v = [opcodeOf v, flg8 v, sc8 v, seq8 v] := rfl
  rw [slice_succ (by omega), slice_succ (by omega), slice_succ (by omega), slice_one (by omega),
    hbe4, fromBe4, opcodeOf_word88, flg8_word88, sc8_word88, seq8_word88]

/-- The value of this kind that stands at an offset of a byte list (R190). -/
def fieldAt (b : List Byte) (o : Nat) : FieldKind → FieldValue
  | .s8 => .s8 (byteAt b o)
  | .s16 => .s16 (fromBe2 b o)
  | .s32 => .s32 (fromBe4 b o)
  | .array n => .array (slice b o n)

/-- The wire bytes of a value read from an offset are the bytes that stand there. -/
theorem wireBytes_fieldAt {b : List Byte} {o : Nat} {k : FieldKind}
    (h : o + kindLength k ≤ b.length) : wireBytes (fieldAt b o k) = slice b o (kindLength k) := by
  cases k with
  | s8 => exact (slice_one h).symm
  | s16 => exact be2_fromBe2 h
  | s32 => exact be4_fromBe4 h
  | array n => rfl

theorem fieldEnd_le (f : Field) : fieldOffset f + fieldLength f ≤ 638 := by cases f <;> decide

/-- A slice that lies inside the list is stored in its register as it is. -/
theorem toList_toArr_slice {b : List Byte} {o n : Nat} (h : o + n ≤ b.length) :
    (toArr n (slice b o n)).toList = slice b o n := by
  rw [toList_toArr, padTo_of_length]
  rw [length_slice]
  omega

/-- DESERIALIZE reads each field at its offset (R190). -/
theorem get_packetOfWire {b : List Byte} (hb : b.length = 638) (f : Field) :
    (packetOfWire b).get f = fieldAt b (fieldOffset f) (fieldKind f) := by
  have hend := hb ▸ fieldEnd_le f
  cases f with
  | acnPacketIdentifier | componentId | sourceName | propertyValues =>
    exact congrArg FieldValue.array (toList_toArr_slice hend)
  | _ => rfl

/-- The bytes of a field that DESERIALIZE loaded are the bytes at its offset (R190). -/
theorem wireBytes_get_packetOfWire {b : List Byte} (hb : b.length = 638) (f : Field) :
    wireBytes ((packetOfWire b).get f) = slice b (fieldOffset f) (fieldLength f) := by
  rw [get_packetOfWire hb]
  exact wireBytes_fieldAt (hb ▸ fieldEnd_le f)

/-- The image of the packet that DESERIALIZE loaded is the list it was loaded from (R196). -/
theorem wireImage_packetOfWire {b : List Byte} (hb : b.length = 638) :
    wireImage (packetOfWire b) = b := by
  rw [wireImage_flatMap, funext (wireBytes_get_packetOfWire hb),
    flatMap_slice_of_tiled b tiledFrom_allFields]
  exact List.take_of_length_le (Nat.le_of_eq hb)

-- A packet is known from its wire image

/-- The kind of a value: the row of R21's kind column that holds it. -/
def kindOf : FieldValue → FieldKind
  | .s8 _ => .s8
  | .s16 _ => .s16
  | .s32 _ => .s32
  | .array bs => .array bs.length

theorem kindOf_get (p : Packet) (f : Field) : kindOf (p.get f) = fieldKind f := by
  cases f with
  | acnPacketIdentifier | componentId | sourceName | propertyValues =>
    exact congrArg FieldKind.array Vector.length_toList
  | _ => rfl

/-- A value is read back from its own wire bytes. -/
theorem fieldAt_wireBytes (v : FieldValue) : fieldAt (wireBytes v) 0 (kindOf v) = v := by
  cases v with
  | s8 v => rfl
  | s16 v => exact congrArg FieldValue.s16 (append_be2 v)
  | s32 v => exact congrArg FieldValue.s32 (append_be4 v)
  | array bs => exact congrArg FieldValue.array List.take_length

theorem get_eq_of_wireBytes_eq {p q : Packet} {f : Field}
    (h : wireBytes (p.get f) = wireBytes (q.get f)) : p.get f = q.get f := by
  rw [← fieldAt_wireBytes (p.get f), ← fieldAt_wireBytes (q.get f), h, kindOf_get, kindOf_get]

/-- The field registers are the whole packet (R21). -/
theorem packet_eq_of_get_eq {p q : Packet} (h : ∀ f, p.get f = q.get f) : p = q := by
  have hall : ∀ f ∈ allFields, p.get f = q.get f := fun f _ => h f
  simp only [allFields, List.forall_mem_cons, Packet.get, FieldValue.s8.injEq, FieldValue.s16.injEq,
    FieldValue.s32.injEq, FieldValue.array.injEq, Vector.toList_inj] at hall
  obtain ⟨⟨⟩, ⟨⟩, ⟨⟩⟩ := p
  obtain ⟨⟨⟩, ⟨⟩, ⟨⟩⟩ := q
  simp_all

/-- Two packets with the same wire image hold the same in every field. -/
theorem wireImage_injective : Function.Injective wireImage := fun p q h =>
  packet_eq_of_get_eq fun f => get_eq_of_wireBytes_eq (by rw [← slice_wireImage, h, slice_wireImage])

/-- DESERIALIZE's reading of a packet's image is that packet (R195). -/
theorem packetOfWire_wireImage (p : Packet) : packetOfWire (wireImage p) = p :=
  wireImage_injective (wireImage_packetOfWire (length_wireImage p))

end Sys2Proof.Machine
end

section
/-! SERIALIZE and SERIALIZE_LAYER: the wire image and its three regions in OUT (43_packet.md R182, R185,
R198). -/

namespace Sys2Proof.Machine

/-- Settles O29: the packet check, and the wire image past it. -/
theorem serializeEmitsWireImage : Obligations.SerializeEmitsWireImage := fun s =>
  ⟨decode_encode .serialize, fun hv => if_pos hv, fun hv =>
    ⟨length_wireImage s.pkt, answersBytes_of_block (length_wireImage s.pkt) (execSerialize_ok hv)⟩⟩

theorem execSerializeLayer_of_none {sel : BitVec 8} (hsel : layerOfSel sel = none) (s : State) :
    exec (.serializeLayer sel) s = .next (afterError s 4#8 0#8) := by
  simp only [exec, execSerializeLayer, hsel]
  rfl

theorem execSerializeLayer_noPacket {sel : BitVec 8} {l : Layer} (hsel : layerOfSel sel = some l)
    {s : State} (hv : s.pktValid = false) :
    exec (.serializeLayer sel) s = .next (afterError s 5#8 0#8) := by
  simp only [exec, execSerializeLayer, hsel, if_pos hv]
  rfl

/-- SERIALIZE_LAYER with a packet leaves the layer's bytes in OUT (R185). -/
theorem execSerializeLayer_ok (l : Layer) {s : State} (hv : s.pktValid = true) :
    exec (.serializeLayer (layerSel l)) s = .next ((s.memWrite 0 (layerImage l s.pkt)).respond
      (BitVec.ofNat 32 (layerSize l)) 0#32 (layerSize l)) := by
  simp only [exec, execSerializeLayer, layerOfSel_layerSel, if_neg (ne_false_of_eq_true hv)]
  rfl

/-- Settles O30: the selector is checked, then the packet; each row of R62 is a layer's region. -/
theorem serializeLayerEmitsRegion : Obligations.SerializeLayerEmitsRegion := by
  intro sel s
  refine ⟨decode_encode (.serializeLayer sel),
    fun hsel => execSerializeLayer_of_none (layerOfSel_eq_none hsel) s,
    fun hsel hv => ?_, fun l base size hrow hv => ?_⟩
  · obtain ⟨l, hl⟩ := exists_layerOfSel hsel
    exact execSerializeLayer_noPacket hl hv
  · obtain ⟨rfl, rfl, rfl⟩ := of_mem_layerTable hrow
    exact ⟨length_layerImage l s.pkt,
      answersBytes_of_block (length_layerImage l s.pkt) (execSerializeLayer_ok l hv)⟩

/-- A layer's region ends within the image (R62). -/
theorem layerEnd_le (l : Layer) : layerBase l + layerSize l ≤ 638 := by cases l <;> decide

/-- What SERIALIZE leaves at a layer's region is what SERIALIZE_LAYER leaves from OUT[0] on. -/
theorem read_wireImage_eq_read_layerImage (s : State) (l : Layer) {k : Nat} (hk : k < layerSize l) :
    (s.memWrite 0 (wireImage s.pkt)).out.read (layerBase l + k) =
      (s.memWrite 0 (layerImage l s.pkt)).out.read k := by
  have hend := layerEnd_le l
  rw [read_out_memWrite s (by rw [length_wireImage]; omega),
    read_out_memWrite s (by rwa [length_layerImage]), getElem?_layerImage _ _ _ hk]

/-- Settles O31: the four commands succeed, and each layer's output is a region of the image. -/
theorem layersTileSerializedPacket : Obligations.LayersTileSerializedPacket := by
  intro s hv
  refine ⟨_, _, _, _, execSerialize_ok hv, execSerializeLayer_ok .root hv,
    execSerializeLayer_ok .frame hv, execSerializeLayer_ok .dmp hv, rfl, rfl, rfl, rfl,
    fun k hk => ?_, fun k hk => read_wireImage_eq_read_layerImage s .frame hk,
    fun k hk => read_wireImage_eq_read_layerImage s .dmp hk⟩
  have hroot := read_wireImage_eq_read_layerImage s .root hk
  rwa [layerBase, Nat.zero_add] at hroot

end Sys2Proof.Machine
end

section
/-! CONSTRUCT: its checks, the packet it makes, and how its lengths nest (43_packet.md R171, R175,
R176). -/

namespace Sys2Proof.Machine

theorem inTooLong_eq_true {s : State} (h : s.cfg.inCap < s.inLen.toNat) : s.inTooLong = true :=
  decide_eq_true h

theorem universeOk_eq_true {u : BitVec 16} (hlow : 1 ≤ u.toNat) (hhigh : u.toNat ≤ 63999) :
    universeOk u = true := by
  simp [universeOk, hlow, hhigh]

theorem universeOk_eq_false {u : BitVec 16} (h : u.toNat < 1 ∨ 63999 < u.toNat) :
    universeOk u = false := by
  simp only [universeOk, Bool.and_eq_false_iff, decide_eq_false_iff_not]
  omega

theorem execConstruct_of_universe {u : BitVec 16} {s : State} (hcap : s.inLen.toNat ≤ s.cfg.inCap)
    (hu : universeOk u = false) : exec (.construct u) s = .next (afterError s 1#8 0x04#8) := by
  simp only [exec, execConstruct, inTooLong_eq_false hcap, hu]
  rfl

theorem execConstruct_of_short {u : BitVec 16} {s : State} (hcap : s.inLen.toNat ≤ s.cfg.inCap)
    (hu : universeOk u = true) (hlen : s.inLen.toNat < 16) :
    exec (.construct u) s = .next (afterError s 3#8 2#8) := by
  simp only [exec, execConstruct, inTooLong_eq_false hcap, hu, if_pos (show _ < cidLen from hlen)]
  rfl

/-- CONSTRUCT past its checks stores its packet and sets PKT_VALID (R175). -/
theorem execConstruct_ok {u : BitVec 16} {s : State} (hcap : s.inLen.toNat ≤ s.cfg.inCap)
    (hu : universeOk u = true) (hlen : 16 ≤ s.inLen.toNat) :
    exec (.construct u) s = .next (afterOk
      { s with pkt := constructed s.cidOperand u s.nameOperand, pktValid := true } 0#32 0#32 0) := by
  simp only [exec, execConstruct, inTooLong_eq_false hcap, hu,
    if_neg (Nat.not_lt.mpr (show cidLen ≤ _ from hlen))]
  rfl

/-- A padded list has the list's byte at each index of the register, and NUL past its end (R176). -/
theorem getElem?_padTo {n k : Nat} (l : List Byte) (hk : k < n) :
    (padTo n l)[k]? = some (l[k]?.getD 0x00#8) := by
  rw [padTo, List.getElem?_take, if_pos hk]
  by_cases hlt : k < l.length
  · rw [List.getElem?_append_left hlt, List.getElem?_eq_getElem hlt]
    rfl
  · have hle : l.length ≤ k := Nat.not_lt.mp hlt
    rw [List.getElem?_append_right hle, List.getElem?_eq_none hle, List.getElem?_replicate,
      if_pos (by omega)]
    rfl

/-- The component id is IN[0..16) as it is: nothing is padded (R175). -/
theorem constructed_componentId (s : State) (u : BitVec 16) (name : List Byte) :
    (constructed s.cidOperand u name).root.componentId.toList = (List.range 16).map s.inAt := by
  have hlen : s.cidOperand.length = 16 := length_memRead ..
  rw [constructed, toList_toArr, padTo_of_length hlen, State.cidOperand, State.memRead]
  simp only [Nat.zero_add]
  rfl

/-- The source name is IN from index 16 on, with NULs from in_len on (R175, R176). -/
theorem getElem?_constructed_sourceName (s : State) (u : BitVec 16) (cid : List Byte) {k : Nat}
    (hk : k < 64) :
    (constructed cid u s.nameOperand).frame.sourceName.toList[k]? =
      some (if 16 + k < s.inLen.toNat then s.inAt (16 + k) else 0x00#8) := by
  have hname : k < s.inLen.toNat - cidLen ↔ 16 + k < s.inLen.toNat := by
    rw [cidLen]
    omega
  rw [constructed, toList_toArr, getElem?_padTo _ hk, State.nameOperand, getElem?_memRead]
  simp only [hname]
  split <;> rfl

/-- Settles O27: three checks in their order; past them the constant fields are R175's numbers, and the
component id and the name come from IN. -/
theorem constructBuildsPacket : Obligations.ConstructBuildsPacket := by
  intro u s
  refine ⟨decode_encode (.construct u), fun hlong => if_pos (inTooLong_eq_true hlong),
    fun hcap hu => execConstruct_of_universe hcap (universeOk_eq_false hu),
    fun hcap hlow hhigh => execConstruct_of_short hcap (universeOk_eq_true hlow hhigh),
    fun hcap hlow hhigh hlen => ⟨constructed s.cidOperand u s.nameOperand,
      execConstruct_ok hcap (universeOk_eq_true hlow hhigh) hlen, ?_⟩⟩
  exact ⟨rfl, rfl, rfl, rfl, rfl, constructed_componentId s u _, rfl, rfl,
    fun k hk => getElem?_constructed_sourceName s u _ hk, rfl, rfl, rfl, rfl, rfl, rfl, rfl, rfl, rfl,
    rfl, rfl, Vector.toList_replicate⟩

/-- The FlagsLength word that CONSTRUCT writes for a layer: flags 7, and the byte count from the layer's
first byte to the end of the packet (R171). -/
theorem flagsLengthOf_constructed (cid : List Byte) (u : BitVec 16) (name : List Byte) (l : Layer) :
    (flagsLengthOf (constructed cid u name) l).toNat = 7 * 4096 + (638 - layerBase l) := by
  cases l <;> exact toNat_packFlagsLength _ _ (by decide) (by decide)

/-- LAYER_INFO of a packet that CONSTRUCT made (R122, R171). -/
theorem execLayerInfo_constructed {s : State} {cid name : List Byte} {u : BitVec 16} (l : Layer)
    (hv : s.pktValid = true) (hpkt : s.pkt = constructed cid u name) :
    ∃ t, exec (.layerInfo (layerSel l)) s = .next t ∧ t.res0.toNat = 638 - layerBase l ∧
      t.res1.toNat = 7 := by
  refine ⟨_, execLayerInfo_ok (layerOfSel_layerSel l) hv, ?_⟩
  rw [hpkt, flagsLengthOf_constructed]
  cases l <;> exact ⟨rfl, rfl⟩

/-- Settles O36: CONSTRUCT succeeds, and each layer's length reaches to the end of the packet. -/
theorem constructedLengthsNest : Obligations.ConstructedLengthsNest := by
  intro u s hcap hlow hhigh hlen
  have hconstruct := execConstruct_ok hcap (universeOk_eq_true hlow hhigh) hlen
  generalize ht : afterOk _ _ _ _ = t at hconstruct
  have hv : t.pktValid = true := by rw [← ht]; rfl
  have hpkt : t.pkt = constructed s.cidOperand u s.nameOperand := by rw [← ht]; rfl
  obtain ⟨a, ha, ha0, ha1⟩ := execLayerInfo_constructed .root hv hpkt
  obtain ⟨b, hb, hb0, hb1⟩ := execLayerInfo_constructed .frame hv hpkt
  obtain ⟨c, hc, hc0, hc1⟩ := execLayerInfo_constructed .dmp hv hpkt
  simp only [layerBase] at ha0 hb0 hc0
  exact ⟨t, a, b, c, hconstruct, ha, hb, hc, by omega, by omega, by omega, ha1, hb1, hc1⟩

end Sys2Proof.Machine
end

section
/-! UPDATE: its checks, what it replaces, and what two of them in a row leave alike (43_packet.md R178,
R197). -/

namespace Sys2Proof.Machine

theorem execUpdate_noPacket (sc seq : BitVec 8) {s : State} (hcap : s.inLen.toNat ≤ s.cfg.inCap)
    (hv : s.pktValid = false) : exec (.update sc seq) s = .next (afterError s 5#8 0#8) := by
  simp only [exec, execUpdate, inTooLong_eq_false hcap, if_pos hv]
  rfl

theorem execUpdate_of_count (sc seq : BitVec 8) {s : State} (hcap : s.inLen.toNat ≤ s.cfg.inCap)
    (hv : s.pktValid = true) (hlen : s.inLen.toNat ≠ 512) :
    exec (.update sc seq) s = .next (afterError s 2#8 0#8) := by
  simp only [exec, execUpdate, inTooLong_eq_false hcap, if_neg (ne_false_of_eq_true hv),
    if_pos (show _ ≠ dmxSlots from hlen)]
  rfl

/-- UPDATE's operand is IN from index 0 on (R94). -/
theorem valuesOperand_eq (s : State) : s.valuesOperand = (List.range 512).map s.inAt := by
  simp only [State.valuesOperand, State.memRead, Nat.zero_add, dmxSlots]

/-- Settles O28: three checks in their order; past them the packet stored is the updated one. -/
theorem updateReplacesValues : Obligations.UpdateReplacesValues := by
  intro sc seq s
  refine ⟨decode_encode (.update sc seq), fun hlong => if_pos (inTooLong_eq_true hlong),
    execUpdate_noPacket sc seq, execUpdate_of_count sc seq, fun hcap hv hlen =>
      ⟨(s.updatedPacket sc seq).dmp.propertyValues, ?_, execUpdate_ok sc seq hlen (hlen ▸ hcap) hv⟩⟩
  rw [updatedPacket_values, valuesOperand_eq]

/-- UPDATE and then SERIALIZE leave the updated packet and its wire image in OUT. -/
theorem update_serialize {sc seq : BitVec 8} {s t u : State} (ht : exec (.update sc seq) s = .next t)
    (hu : exec .serialize t = .next u) (hv : s.pktValid = true) (hlen : s.inLen.toNat = 512)
    (hcap : 512 ≤ s.cfg.inCap) : t.pkt = s.updatedPacket sc seq ∧
      ∀ k, k < 638 → u.out.read k = (wireImage (s.updatedPacket sc seq))[k]? := by
  rw [execUpdate_ok sc seq hlen hcap hv] at ht
  cases ht
  obtain rfl := Host.Outcome.next.inj (hu.symm.trans (execSerialize_ok hv))
  exact ⟨rfl, fun k hk => read_out_memWrite _ (by rwa [length_wireImage])⟩

/-- From offset 125 on, the image after UPDATE is the start code and the 512 bytes of IN. -/
theorem getElem?_wireImage_updatedPacket_values (s : State) (sc seq : BitVec 8) {k : Nat}
    (hk : 125 ≤ k) : (wireImage (s.updatedPacket sc seq))[k]? =
      (sc :: (List.range 512).map s.inAt)[k - 125]? := by
  obtain ⟨j, rfl⟩ := Nat.exists_eq_add_of_le hk
  rw [getElem?_wireImage_values, updatedPacket_values, valuesOperand_eq, Nat.add_sub_cancel_left]

/-- Settles O35: below the value block both images are the first packet's, and in it each is its own
list of start code and values. -/
theorem successiveUpdatesDifferOnlyInValues : Obligations.SuccessiveUpdatesDifferOnlyInValues := by
  intro sc sc' seq seq' s v t t' u u' ht hu ht' hu' hsv hvv hslen hvlen hscap hvcap hpkt k hk hne hsame
  obtain ⟨htpkt, hread⟩ := update_serialize ht hu hsv hslen hscap
  obtain ⟨-, hread'⟩ := update_serialize ht' hu' hvv hvlen hvcap
  rw [hread k hk, hread' k hk]
  by_cases hvalues : 125 ≤ k
  · rw [getElem?_wireImage_updatedPacket_values s sc seq hvalues, hsame hvalues,
      getElem?_wireImage_updatedPacket_values v sc' seq' hvalues]
  · rw [getElem?_wireImage_updatedPacket v sc' seq' (by omega) hne, hpkt, htpkt]

end Sys2Proof.Machine
end

section
/-! DESERIALIZE: its checks, the fields it loads, and the two round trips with SERIALIZE (43_packet.md
R190, R193, R195, R196). -/

namespace Sys2Proof.Machine

theorem execDeserialize_of_short {s : State} (hcap : s.inLen.toNat ≤ s.cfg.inCap)
    (hlen : s.inLen.toNat < 638) : exec .deserialize s = .next (afterError s 3#8 1#8) := by
  simp only [exec, execDeserialize, inTooLong_eq_false hcap, if_pos (show _ < pktLen from hlen)]
  rfl

/-- DESERIALIZE past its checks loads its packet and sets PKT_VALID, whatever the bytes are (R190,
R193). -/
theorem execDeserialize_ok {s : State} (hcap : s.inLen.toNat ≤ s.cfg.inCap)
    (hlen : 638 ≤ s.inLen.toNat) :
    exec .deserialize s = .next (afterOk
      { s with pkt := packetOfWire s.packetOperand, pktValid := true } 638#32 0#32 0) := by
  simp only [exec, execDeserialize, inTooLong_eq_false hcap,
    if_neg (Nat.not_lt.mpr (show pktLen ≤ _ from hlen))]
  rfl

theorem length_packetOperand (s : State) : s.packetOperand.length = 638 := length_memRead ..

/-- A slice of what MemRead gives is a MemRead of its own. -/
theorem slice_memRead (s : State) {a n m : Nat} (h : a + n ≤ m) :
    slice (s.memRead 0 m) a n = s.memRead a n := by
  apply List.ext_getElem?
  intro k
  rw [getElem?_slice, getElem?_memRead, getElem?_memRead]
  by_cases hk : k < n
  · rw [if_pos hk, if_pos hk, if_pos (by omega), Nat.zero_add]
  · rw [if_neg hk, if_neg hk]

/-- Each field of the loaded packet has the bytes of IN at its offset (R190). -/
theorem wireBytes_get_loaded (s : State) (f : Field) :
    wireBytes ((packetOfWire s.packetOperand).get f) = s.memRead (fieldOffset f) (fieldLength f) := by
  rw [wireBytes_get_packetOfWire (length_packetOperand s)]
  exact slice_memRead s (fieldEnd_le f)

theorem length_hostImage (l : Layer) (p : Packet) : (hostImage l p).length = layerSize l := by
  rw [hostImage_eq, length_flatMap_fields (length_hostBytes_get p), sum_fieldLength_fieldsOf]

/-- The source's route: SwapImg of a layer's wire bytes is its host image (R152, R155, R190). -/
theorem swapImg_layerImage (l : Layer) (p : Packet) : swapImg l (layerImage l p) = hostImage l p := by
  rw [layerImage_eq, ← swapImg_hostImage, swapImg_swapImg (length_hostImage l p)]

/-- The layer regions of the loaded packet's image are the layer's slices of IN. -/
theorem layerImage_loaded (s : State) (l : Layer) :
    layerImage l (packetOfWire s.packetOperand) = s.memRead (layerBase l) (layerSize l) := by
  rw [layerImage, wireImage_packetOfWire (length_packetOperand s)]
  exact slice_memRead s (layerEnd_le l)

/-- Settles O32: the two checks; past them each field and each layer is its slice of IN. -/
theorem deserializeLoadsEveryField : Obligations.DeserializeLoadsEveryField := by
  intro s
  refine ⟨decode_encode .deserialize, fun hlong => if_pos (inTooLong_eq_true hlong),
    execDeserialize_of_short, fun hcap hlen =>
      ⟨packetOfWire s.packetOperand, execDeserialize_ok hcap hlen, fun off bs hrow k hk => ?_,
        fun sel l base size hrow => ?_⟩⟩
  · rw [wireTable_eq] at hrow
    obtain ⟨f, -, hf⟩ := List.mem_map.mp hrow
    cases hf
    rw [length_wireBytes_get] at hk
    rw [wireBytes_get_loaded, getElem?_memRead, if_pos hk]
  · obtain ⟨-, rfl, rfl⟩ := of_mem_layerTable hrow
    rw [← swapImg_layerImage, layerImage_loaded]
    rfl

theorem getElem?_packetOperand (s : State) {k : Nat} (hk : k < 638) :
    s.packetOperand[k]? = some (s.inAt k) := by
  rw [State.packetOperand, getElem?_memRead, if_pos (show k < pktLen from hk), Nat.zero_add]

/-- IN holds the image that SERIALIZE wrote, once the host has copied OUT there. -/
theorem packetOperand_of_out {s t v : State} (hv : s.pktValid = true)
    (ht : exec .serialize s = .next t) (hcopy : ∀ k, k < 638 → t.out.read k = some (v.inAt k)) :
    v.packetOperand = wireImage s.pkt := by
  rw [execSerialize_ok hv] at ht
  cases ht
  refine List.ext_getElem? fun k => ?_
  by_cases hk : k < 638
  · rw [getElem?_packetOperand v hk, ← hcopy k hk]
    exact read_out_memWrite s (by rwa [length_wireImage])
  · rw [List.getElem?_eq_none (by rw [length_packetOperand]; omega),
      List.getElem?_eq_none (by rw [length_wireImage]; omega)]

/-- Settles O33: the packet is read back from its own image. -/
theorem serializeThenDeserializeKeepsPacket : Obligations.SerializeThenDeserializeKeepsPacket := by
  intro s v t hv ht hlen hcap hcopy
  refine ⟨_, execDeserialize_ok (by omega) (by omega), ?_, rfl⟩
  exact (congrArg packetOfWire (packetOperand_of_out hv ht hcopy)).trans (packetOfWire_wireImage s.pkt)

/-- Settles O34: the image of the loaded packet is the 638 bytes it was loaded from. -/
theorem deserializeThenSerializeKeepsBytes : Obligations.DeserializeThenSerializeKeepsBytes := by
  intro s hcap hlen
  refine ⟨_, _, execDeserialize_ok hcap hlen, execSerialize_ok rfl, rfl, fun k hk => ?_⟩
  have himage := wireImage_packetOfWire (length_packetOperand s)
  calc
    _ = (wireImage (packetOfWire s.packetOperand))[k]? :=
      read_out_memWrite _ (by rwa [length_wireImage])
    _ = some (s.inAt k) := by rw [himage, getElem?_packetOperand s hk]

end Sys2Proof.Machine
end

section
/-! Errors and success over every command: an error step is precise, a success keeps ERR_SEEN and the
rest of OUT, and which commands refuse to run without a packet (60_exceptions.md R201, R205, R206). -/

namespace Sys2Proof.Machine

/-- Settles O39: a word with a nonzero CODE raised, and a raise is the error step; every word
answers. -/
theorem errorsArePrecise : Obligations.ErrorsArePrecise := by
  intro w s t h hc
  refine ⟨?_, fun w' => ?_⟩
  · rcases runWord_cases h with ⟨e, cause, ht, _⟩ | ⟨_, _, _, _, _, _, ha⟩
    · exact ⟨errorCode e, cause, ht.trans (raise_eq_afterError s e cause), errorCode_bounds e⟩
    · exact absurd ha.status_eq_zero hc
  · obtain ⟨u, hu, _⟩ := runWord_result w' t
    exact ⟨u, hu⟩

/-- After an answer STATUS is PKT_VALID and zeros (R206). -/
theorem Answered.status_eq {s t : State} {p : Packet} {v : Bool} {bs : List Byte}
    (h : Answered s t p v bs) : t.status = statusWord t.pktValid 0#8 0#8 := by
  obtain ⟨m, r0, r1, rfl, _⟩ := h
  rfl

/-- An answer keeps OUT from OUT_LEN on (R52): OUT_LEN is the number of bytes it wrote. -/
theorem Answered.read_out_of_outLen_le {s t : State} {p : Packet} {v : Bool} {bs : List Byte}
    (h : Answered s t p v bs) {k : Nat} (hk : t.outLen.toNat ≤ k) :
    t.out.read k = s.out.read k := by
  obtain ⟨m, r0, r1, rfl, hlen, hread, _⟩ := h
  have houtLen : (BitVec.ofNat 16 bs.length).toNat = bs.length := by
    rw [BitVec.toNat_ofNat]; omega
  rw [State.respond_outLen, houtLen] at hk
  exact (hread k).trans (if_neg (Nat.not_lt.mpr hk))

/-- Settles O40: a command with CODE 0 answered, and an answer writes OUT below OUT_LEN alone. -/
theorem successKeepsErrorsAndRest : Obligations.SuccessKeepsErrorsAndRest := by
  intro i s t h hc
  obtain ⟨t', ht, hr⟩ := exec_result i s
  rw [h] at ht
  cases ht
  rcases hr with hr | ⟨p, v, bs, _, ha⟩
  · exact absurd hc hr.status_ne_zero
  · obtain ⟨_, _, herr⟩ := ha.registers_eq
    exact ⟨ha.status_eq, herr, fun k hk => ha.read_out_of_outLen_le hk⟩

/-- Settles O41: a selector or field id that names something and an in_len within IN pass the earlier
checks; the other six commands check nothing before the packet. -/
theorem noPacketIsRaised : Obligations.NoPacketIsRaised := by
  intro i s hv hi
  rcases hi with ⟨sel, hsel, hi⟩ | ⟨fid, hfid, rfl⟩ | ⟨v, rfl⟩ | ⟨sc, seq, hcap, rfl⟩ |
    rfl | rfl | rfl | rfl | rfl
  · obtain ⟨l, hl⟩ := exists_layerOfSel hsel
    rcases hi with rfl | rfl
    · exact execLayerInfo_noPacket hl hv
    · exact execSerializeLayer_noPacket hl hv
  · obtain ⟨_, _, hnone, _⟩ := readFieldReturnsRegister fid s
    exact hnone hfid hv
  · exact if_pos hv
  · exact execUpdate_noPacket sc seq hcap hv
  · exact if_pos hv
  · exact if_pos hv
  · exact if_pos hv
  · exact if_pos hv
  · exact if_pos hv

end Sys2Proof.Machine
end

section
/-! The priority of errors (60_exceptions.md R203): the ordered list of all checks comes down, for a
word that decodes, to the checks of its own command, and each command makes those in their order. -/

namespace Sys2Proof.Machine

/-- The checks of R203 after the decoder's two that can apply to a command, in their order, with the
CODE and CAUSE of each; `firstError_of_decode_ok` ties them to `checksInOrder`. -/
def commandChecks (s : State) : Instr → List (Bool × BitVec 8 × BitVec 8)
  | .flEncode f l =>
    [(0xF < f.toNat && 0xFFF < l.toNat, 1#8, 3#8), (0xF < f.toNat, 1#8, 1#8),
     (0xFFF < l.toNat, 1#8, 2#8)]
  | .flDecode _ => []
  | .layerInfo sel | .serializeLayer sel => [(3 ≤ sel.toNat, 4#8, 0#8), (!s.pktValid, 5#8, 0#8)]
  | .rootSplit | .frameSplit | .setSequence _ | .dmpGetStartCode | .dmpGetValues | .serialize =>
    [(!s.pktValid, 5#8, 0#8)]
  | .readField fid => [(!definedFieldId fid.toNat, 6#8, 4#8), (!s.pktValid, 5#8, 0#8)]
  | .toNetwork sel | .toHost sel =>
    [(s.cfg.inCap < s.inLen.toNat, 6#8, 3#8), (3 ≤ sel.toNat, 4#8, 0#8),
     (s.inLen.toNat < sizeOfSel sel.toNat, 3#8, 3#8)]
  | .construct u =>
    [(s.cfg.inCap < s.inLen.toNat, 6#8, 3#8), (u.toNat < 1 || 63999 < u.toNat, 1#8, 4#8),
     (s.inLen.toNat < 16, 3#8, 2#8)]
  | .update _ _ =>
    [(s.cfg.inCap < s.inLen.toNat, 6#8, 3#8), (!s.pktValid, 5#8, 0#8),
     (s.inLen.toNat ≠ 512, 2#8, 0#8)]
  | .deserialize => [(s.cfg.inCap < s.inLen.toNat, 6#8, 3#8), (s.inLen.toNat < 638, 3#8, 1#8)]

/-- The error of the first check of a list that applies. -/
def firstOf (cs : List (Bool × BitVec 8 × BitVec 8)) : Option (BitVec 8 × BitVec 8) :=
  (cs.find? (·.1)).map (·.2)

theorem firstOf_cons (b : Bool) (code cause : BitVec 8) (cs : List (Bool × BitVec 8 × BitVec 8)) :
    firstOf ((b, code, cause) :: cs) = if b then some (code, cause) else firstOf cs := by
  cases b <;> rfl

/-- The decoder's two checks come first, with the masks of the opcode (R203). -/
theorem firstError_eq (w : Word) (s : State) :
    firstError w s =
      if illegalOpcode (opcodeOf w).toNat then some (6#8, 1#8)
      else if w &&& reservedBitsOf (opcodeOf w).toNat ≠ 0#32 then some (6#8, 2#8)
      else firstOf ((checksInOrder w s).drop 2) := by
  have hcons : firstError w s = firstOf ((_, _, _) :: (decide (_ ≠ _), _, _) :: _) := rfl
  rw [hcons, firstOf_cons, firstOf_cons]
  simp only [decide_eq_true_iff]
  rfl

/-- A word of no row of the map reports the unknown opcode, whatever else is wrong with it. -/
theorem firstError_of_no_row {w : Word} (h : opcodeRow (opcodeOf w).toNat = none) (s : State) :
    firstError w s = some (6#8, 1#8) := by
  rw [firstError_eq, if_pos ((illegalOpcode_iff _).mpr h)]

/-- The checks past the decoder's, for a word with a row. -/
theorem firstError_of_row {w : Word} {fmt : Format} {build : Word → Instr}
    (h : opcodeRow (opcodeOf w).toNat = some (fmt, build)) (s : State) :
    firstError w s = if w &&& reservedMask fmt ≠ 0#32 then some (6#8, 2#8)
      else firstOf ((checksInOrder w s).drop 2) := by
  have hlegal : ¬illegalOpcode (opcodeOf w).toNat = true := by
    rw [illegalOpcode_iff, h]
    exact Option.some_ne_none _
  rw [firstError_eq, if_neg hlegal, reservedBitsOf_of_row h]

/-- The checks past the decoder's come down to those of the row's command: each of the others is about
other opcodes, so that it evaluates to false. -/
theorem firstOf_checks_of_row {w : Word} {fmt : Format} {build : Word → Instr}
    (h : opcodeRow (opcodeOf w).toNat = some (fmt, build)) (s : State) :
    firstOf ((checksInOrder w s).drop 2) = firstOf (commandChecks s (build w)) := by
  have hopc : (w.extractLsb' 24 8).toNat = (opcodeOf w).toNat := rfl
  simp only [checksInOrder, hopc]
  generalize (opcodeOf w).toNat = n at h
  unfold opcodeRow at h
  split at h <;> cases h <;> rfl

theorem firstError_of_decode_ok {w : Word} {i : Instr} (h : decode w = .ok i) (s : State) :
    firstError w s = firstOf (commandChecks s i) := by
  obtain ⟨fmt, build, hrow, hm, rfl⟩ := row_of_decode_ok h
  rw [firstError_of_row hrow, if_neg (not_not_intro hm), firstOf_checks_of_row hrow]

/-- A word that does not decode reports the decoder's error. -/
theorem firstError_of_decode_error {w : Word} {e : DecodeError} (h : decode w = .error e)
    (s : State) : firstError w s = some (6#8, decodeCause e) := by
  cases hrow : opcodeRow (opcodeOf w).toNat with
  | none =>
    rw [decode_of_no_row hrow] at h
    cases h
    exact firstError_of_no_row hrow s
  | some r =>
    obtain ⟨fmt, build⟩ := r
    by_cases hm : w &&& reservedMask fmt = 0#32
    · rw [decode_of_row rfl hrow hm rfl] at h
      cases h
    · rw [decode_of_reserved hrow hm] at h
      cases h
      rw [firstError_of_row hrow, if_pos hm]
      rfl

/-- The outcome from `s` is the step of this error, or a success where there is none. -/
def Reports (s : State) (o : Host.Outcome State Fault Refusal)
    (r : Option (BitVec 8 × BitVec 8)) : Prop :=
  (∀ code cause, r = some (code, cause) → o = .next (afterError s code cause)) ∧
    (r = none → ∃ t, o = .next t ∧ statusCode t.status = 0#8)

theorem Reports.error {s : State} {o : Host.Outcome State Fault Refusal} {code cause : BitVec 8}
    (h : o = .next (afterError s code cause)) : Reports s o (some (code, cause)) :=
  ⟨by rintro _ _ ⟨⟩; exact h, nofun⟩

/-- With no check left the outcome is a success. -/
theorem Reports.ok {s t : State} {o : Host.Outcome State Fault Refusal} (h : o = .next t)
    (ht : statusCode t.status = 0#8) : Reports s o (firstOf []) :=
  ⟨nofun, fun _ => ⟨t, h, ht⟩⟩

/-- The next check of a list: where its condition holds the outcome is its error, and where not the
other checks decide. -/
theorem Reports.check {s : State} {o : Host.Outcome State Fault Refusal} {b : Bool} {c : Prop}
    {code cause : BitVec 8} {cs : List (Bool × BitVec 8 × BitVec 8)} (hb : b = true ↔ c)
    (herr : c → o = .next (afterError s code cause)) (hrest : ¬c → Reports s o (firstOf cs)) :
    Reports s o (firstOf ((b, code, cause) :: cs)) := by
  rw [firstOf_cons]
  split
  next h => exact .error (herr (hb.mp h))
  next h => exact hrest (mt hb.mpr h)

/-- A command that answers bytes succeeds. -/
theorem Reports.bytes {i : Instr} {s : State} {r0 r1 : BitVec 32} {bs : List Byte}
    (h : answersBytes i s r0 r1 bs) : Reports s (exec i s) (firstOf []) := by
  obtain ⟨t, ht, -, heq⟩ := h
  refine .ok ht ?_
  rw [heq]
  exact statusCode_afterOk s r0 r1 bs.length

/-- A check that something is set: the packet, or a defined field id. -/
theorem Reports.checkSet {s : State} {o : Host.Outcome State Fault Refusal} {b : Bool}
    {code cause : BitVec 8} {cs : List (Bool × BitVec 8 × BitVec 8)}
    (herr : b = false → o = .next (afterError s code cause))
    (hrest : b = true → Reports s o (firstOf cs)) :
    Reports s o (firstOf ((!b, code, cause) :: cs)) :=
  .check (by simp) herr fun hb => hrest (Bool.eq_true_of_not_eq_false hb)

/-- The selector check: past it the selector is a layer's. -/
theorem Reports.selectorCheck {s : State} {o : Host.Outcome State Fault Refusal} {sel : BitVec 8}
    {cs : List (Bool × BitVec 8 × BitVec 8)}
    (hbad : 3 ≤ sel.toNat → o = .next (afterError s 4#8 0#8))
    (hrest : ∀ l, sel = layerSel l → Reports s o (firstOf cs)) :
    Reports s o (firstOf ((3 ≤ sel.toNat, 4#8, 0#8) :: cs)) := by
  refine .check decide_eq_true_iff hbad fun hsel => ?_
  obtain ⟨l, hl⟩ := exists_layerOfSel (Nat.lt_of_not_le hsel)
  exact hrest l (layerOfSel_some hl)

/-- The check of in_len: past it in_len is within IN. -/
theorem Reports.inLenCheck {s : State} {o : Host.Outcome State Fault Refusal}
    {cs : List (Bool × BitVec 8 × BitVec 8)}
    (hlong : s.cfg.inCap < s.inLen.toNat → o = .next (afterError s 6#8 3#8))
    (hrest : s.inLen.toNat ≤ s.cfg.inCap → Reports s o (firstOf cs)) :
    Reports s o (firstOf ((s.cfg.inCap < s.inLen.toNat, 6#8, 3#8) :: cs)) :=
  .check decide_eq_true_iff hlong fun hcap => hrest (Nat.le_of_not_lt hcap)

theorem sizeOfSel_layerSel (l : Layer) : sizeOfSel (layerSel l).toNat = layerSize l := by
  cases l <;> rfl

/-- The conversion of TO_NETWORK and TO_HOST makes its checks in R203's order. -/
theorem convertLayer_reports (sel : BitVec 8) (s : State) :
    Reports s (convertLayer sel s) (firstOf (commandChecks s (.toNetwork sel))) := by
  refine .inLenCheck (fun hlong => convertLayer_of_tooLong hlong sel) fun hcap => ?_
  refine .selectorCheck (fun hsel => convertLayer_of_none (layerOfSel_eq_none hsel) hcap) ?_
  rintro l rfl
  rw [sizeOfSel_layerSel]
  exact .check decide_eq_true_iff (convertLayer_of_short hcap) fun hlen =>
    .ok (convertLayer_ok hcap (Nat.le_of_not_lt hlen)) (statusCode_statusWord ..)

/-- Every output form of a field read is a success. -/
theorem statusCode_respondField (s : State) (v : FieldValue) :
    statusCode (s.respondField v).status = 0#8 := by
  cases v <;> exact statusCode_statusWord ..

/-- FL_ENCODE reports its operands out of range with the full mask. -/
theorem exec_flEncode_reports (f : BitVec 8) (l : BitVec 16) (s : State) :
    Reports s (exec (.flEncode f l) s) (firstOf (commandChecks s (.flEncode f l))) := by
  obtain ⟨-, hok, hflags, hlength, hboth⟩ := flEncodePacksOrRaises f l s
  refine .check (c := 15 < f.toNat ∧ 4095 < l.toNat) (by simp) (fun ⟨hf, hl⟩ => hboth hf hl)
    fun hnot => ?_
  refine .check decide_eq_true_iff (fun hf => hflags hf (by omega)) fun hf => ?_
  refine .check decide_eq_true_iff (fun hl => hlength (by omega) hl) fun hl => ?_
  exact .ok (hok (by omega) (by omega)) (statusCode_afterOk ..)

theorem exec_construct_reports (u : BitVec 16) (s : State) :
    Reports s (exec (.construct u) s) (firstOf (commandChecks s (.construct u))) := by
  obtain ⟨-, hlong, huniverse, hshort, hok⟩ := constructBuildsPacket u s
  refine .inLenCheck hlong fun hcap => ?_
  refine .check (c := u.toNat < 1 ∨ 63999 < u.toNat) (by simp) (huniverse hcap) fun hu => ?_
  refine .check decide_eq_true_iff (hshort hcap (by omega) (by omega)) fun hlen => ?_
  obtain ⟨p, hp, -⟩ := hok hcap (by omega) (by omega) (by omega)
  exact .ok hp (statusCode_afterOk ..)

theorem exec_update_reports (sc seq : BitVec 8) (s : State) :
    Reports s (exec (.update sc seq) s) (firstOf (commandChecks s (.update sc seq))) := by
  obtain ⟨-, hlong, hnone, hcount, hok⟩ := updateReplacesValues sc seq s
  refine .inLenCheck hlong fun hcap => .checkSet (hnone hcap) fun hv => ?_
  refine .check decide_eq_true_iff (hcount hcap hv) fun hlen => ?_
  obtain ⟨pv, -, hp⟩ := hok hcap hv (not_not.mp hlen)
  exact .ok hp (statusCode_afterOk ..)

/-- Every command makes its checks in R203's order, and succeeds past them. -/
theorem exec_reports (i : Instr) (s : State) :
    Reports s (exec i s) (firstOf (commandChecks s i)) := by
  cases i with
  | flEncode f l => exact exec_flEncode_reports f l s
  | flDecode w => exact .ok (exec_flDecode w s) (statusCode_afterOk ..)
  | layerInfo sel =>
    refine .selectorCheck (fun hsel => execLayerInfo_of_none (layerOfSel_eq_none hsel) s) ?_
    rintro l rfl
    exact .checkSet (execLayerInfo_noPacket (layerOfSel_layerSel l)) fun hv =>
      .ok (execLayerInfo_ok (layerOfSel_layerSel l) hv) (statusCode_afterOk ..)
  | rootSplit => exact .checkSet (fun hv => if_pos hv) fun hv => .bytes (execRootSplit_ok hv)
  | frameSplit => exact .checkSet (fun hv => if_pos hv) fun hv => .bytes (execFrameSplit_ok hv)
  | setSequence v =>
    obtain ⟨-, hnone, hok⟩ := setSequenceStoresModulo v s
    exact .checkSet hnone fun hv => .ok (hok hv) (statusCode_afterOk ..)
  | dmpGetStartCode =>
    exact .checkSet (fun hv => if_pos hv) fun hv =>
      .ok (if_neg (ne_false_of_eq_true hv)) (statusCode_statusWord ..)
  | dmpGetValues =>
    obtain ⟨-, hnone, hok⟩ := getValuesGivesAllSlots s
    refine .checkSet hnone fun hv => ?_
    obtain ⟨vals, -, -, hbytes⟩ := hok hv
    exact .bytes hbytes
  | readField fid =>
    obtain ⟨-, hbad, hnone, -⟩ := readFieldReturnsRegister fid s
    refine .checkSet hbad fun hfid => ?_
    obtain ⟨f, hf⟩ := exists_fieldId_of_defined hfid
    obtain rfl := BitVec.eq_of_toNat_eq hf
    exact .checkSet (hnone hfid) fun hv =>
      .ok (execReadField_ok hv rfl) (statusCode_respondField ..)
  | toNetwork sel => exact convertLayer_reports sel s
  | toHost sel => exact convertLayer_reports sel s
  | construct u => exact exec_construct_reports u s
  | update sc seq => exact exec_update_reports sc seq s
  | serialize =>
    exact .checkSet (fun hv => if_pos hv) fun hv =>
      .ok (execSerialize_ok hv) (statusCode_statusWord ..)
  | serializeLayer sel =>
    refine .selectorCheck (fun hsel => execSerializeLayer_of_none (layerOfSel_eq_none hsel) s) ?_
    rintro l rfl
    exact .checkSet (execSerializeLayer_noPacket (layerOfSel_layerSel l)) fun hv =>
      .ok (execSerializeLayer_ok l hv) (statusCode_statusWord ..)
  | deserialize =>
    obtain ⟨-, hlong, hshort, -⟩ := deserializeLoadsEveryField s
    exact .inLenCheck hlong fun hcap => .check decide_eq_true_iff (hshort hcap) fun hlen =>
      .ok (execDeserialize_ok hcap (Nat.le_of_not_lt hlen)) (statusCode_afterOk ..)

/-- Settles O38: the first error of a word is the decoder's, or the first of its command's checks. -/
theorem firstErrorIsReported : Obligations.FirstErrorIsReported := by
  intro w s
  show Reports s (runWord w s) (firstError w s)
  cases h : decode w with
  | error e =>
    rw [firstError_of_decode_error h, runWord, h]
    exact .error rfl
  | ok i =>
    rw [firstError_of_decode_ok h, runWord, h]
    exact exec_reports i s

end Sys2Proof.Machine
end

section
/-! Reset and waiting: the values a reset sets, the wait on an empty script, and that no word shows what
the packet registers hold while PKT_VALID = 0 (70_reset_and_hazards.md R230, R231, R233). -/

namespace Sys2Proof.Machine

/-- Where `o` answers, `o'` answers the same but for the packet registers, and even these agree where
PKT_VALID is set. -/
def SameButPacket (o o' : Host.Outcome State Fault Refusal) : Prop :=
  ∀ t, o = .next t → ∃ q, o' = .next (t.setPacket q) ∧ (t.pktValid = true → q = t.pkt)

/-- Without a packet the registers may hold anything. -/
theorem SameButPacket.withoutPacket {t : State} (hv : t.pktValid = false) (p : Packet) :
    SameButPacket (answer t) (answer (t.setPacket p)) := by
  intro u h
  cases h
  exact ⟨p, rfl, fun hvalid => absurd (hv.symm.trans hvalid) Bool.false_ne_true⟩

/-- A command that loads a whole packet overwrites every register. -/
theorem SameButPacket.same (t : State) : SameButPacket (answer t) (answer t) := by
  intro u h
  cases h
  exact ⟨t.pkt, rfl, fun _ => rfl⟩

theorem SameButPacket.ite {c : Prop} [Decidable c] {a b a' b' : Host.Outcome State Fault Refusal}
    (ha : SameButPacket a a') (hb : SameButPacket b b') :
    SameButPacket (if c then a else b) (if c then a' else b') := by
  split
  · exact ha
  · exact hb

section
variable {s : State} (hv : s.pktValid = false) (p : Packet)
include hv

/-- The error step leaves the registers unread. -/
theorem SameButPacket.raised (e : ErrorCode) (cause : BitVec 8) :
    SameButPacket (answer (s.raise e cause)) (answer ((s.setPacket p).raise e cause)) :=
  .withoutPacket (t := s.raise e cause) hv p

/-- The success step leaves the registers unread. -/
theorem SameButPacket.responded (r0 r1 : BitVec 32) (n : Nat) :
    SameButPacket (answer (s.respond r0 r1 n)) (answer ((s.setPacket p).respond r0 r1 n)) :=
  .withoutPacket (t := s.respond r0 r1 n) hv p

/-- The NO_PACKET check stops a command before it reads the registers, whatever it does past it. -/
theorem SameButPacket.noPacket {b b' : Host.Outcome State Fault Refusal} :
    SameButPacket (if s.pktValid = false then answer (s.raise .noPacket causeNone) else b)
      (if (s.setPacket p).pktValid = false then answer ((s.setPacket p).raise .noPacket causeNone)
        else b') := by
  rw [State.setPacket_pktValid, if_pos hv, if_pos hv]
  exact .raised hv p _ _

/-- The conversion works on IN alone. -/
theorem convertLayer_withPacket (sel : BitVec 8) :
    SameButPacket (convertLayer sel s) (convertLayer sel (s.setPacket p)) := by
  unfold convertLayer
  refine .ite (.raised hv p _ _) ?_
  cases layerOfSel sel with
  | none => exact .raised hv p _ _
  | some l => exact .ite (.raised hv p _ _) (.responded (s := s.memWrite 0 _) hv p _ _ _)

/-- Without a packet every command either does without the registers, raises NO_PACKET before it reads
them, or overwrites them all (R231). -/
theorem exec_withPacket (i : Instr) : SameButPacket (exec i s) (exec i (s.setPacket p)) := by
  cases i with
  | flEncode => exact .ite (.raised hv p _ _) (.responded hv p _ _ _)
  | flDecode => exact .responded hv p _ _ _
  | rootSplit | frameSplit | setSequence | dmpGetStartCode | dmpGetValues | serialize =>
    exact .noPacket hv p
  | layerInfo sel | serializeLayer sel =>
    simp only [exec, execLayerInfo, execSerializeLayer]
    cases layerOfSel sel with
    | none => exact .raised hv p _ _
    | some l => exact .noPacket hv p
  | readField fid =>
    simp only [exec, execReadField]
    cases fieldOfId fid with
    | none => exact .raised hv p _ _
    | some f => exact .noPacket hv p
  | toNetwork sel | toHost sel => exact convertLayer_withPacket hv p sel
  | update => exact .ite (.raised hv p _ _) (.noPacket hv p)
  | construct =>
    exact .ite (.raised hv p _ _) (.ite (.raised hv p _ _) (.ite (.raised hv p _ _) (.same _)))
  | deserialize => exact .ite (.raised hv p _ _) (.ite (.raised hv p _ _) (.same _))

/-- Without a packet no word shows what the registers hold (R231). -/
theorem runWord_withPacket (w : Word) :
    SameButPacket (runWord w s) (runWord w (s.setPacket p)) := by
  unfold runWord
  cases decode w with
  | ok i => exact exec_withPacket hv p i
  | error e => exact .raised hv p _ _

end

/-- Settles O46: every word answers, and by `exec_withPacket` it answers alike from both states. -/
theorem unspecifiedRegistersAreNeverObserved : Obligations.UnspecifiedRegistersAreNeverObserved := by
  intro w s p hv
  obtain ⟨t, ht, _⟩ := runWord_result w s
  obtain ⟨q, hq, hpkt⟩ := runWord_withPacket hv p w t ht
  exact ⟨t, t.setPacket q, ht, hq, rfl, hpkt⟩

/-- Settles O57: a reset is the power-on state with what the host holds, and IN is the host's. -/
theorem resetSetsOutputRegisters : Obligations.ResetSetsOutputRegisters :=
  ⟨fun _ => ⟨_, rfl, rfl, rfl, rfl, rfl, rfl, rfl, fun _ => rfl⟩, rfl, rfl, rfl, rfl, rfl, rfl⟩

/-- Settles O58: an empty script has no next action, and a step without one keeps the state. -/
theorem codecWaitsForCommand : Obligations.CodecWaitsForCommand := by
  intro s h
  rw [step, State.nextAction, h]

/-- Settles O59, by `inv_reset`: the reset values of R230 are legal and both buffers are empty. -/
theorem resetHasInvariant : Obligations.ResetHasInvariant := inv_reset

end Sys2Proof.Machine
end
